-- ==== Sys2Proof/Word.lean ====
section
/-! DEFINITION. The word types of the block: every quantity is an unsigned integer, a byte, a boolean or an
enumeration (00_scope.md R12). -/

namespace Sys2Proof

/-- One byte of the wire, of CMD_BUF or of FB. -/
abbrev Byte := BitVec 8

/-- A host operation word (30_encoding.md R45). -/
abbrev HostWord := BitVec 16

/-- A transport event word (30_encoding.md R52). -/
abbrev EventWord := BitVec 10

/-- The value an acknowledge carries (30_encoding.md R50). -/
abbrev Value := BitVec 32

end Sys2Proof
end

