-- ==== Sys2Proof/Syntax.lean ====
section
/-! DEFINITION. The instructions: one constructor per row of spec/opcode_table.json, and the input events a step
takes. -/

namespace Sys2Proof

/-- The two channels (30_encoding.md R47): the CH field names channel 1 by 0 and channel 2 by 1. -/
inductive Channel where
  | ch1
  | ch2
deriving DecidableEq, Repr

/-- The eleven host operations (30_encoding.md R46) and the four transport events (30_encoding.md R52). -/
inductive Instr where
  /-- 40_settings.md R63 -/
  | inctb (c : Channel)
  /-- 40_settings.md R64 -/
  | dectb (c : Channel)
  /-- 40_settings.md R65 -/
  | gettb (c : Channel)
  /-- 40_settings.md R66 -/
  | tgledge (c : Channel)
  /-- 40_settings.md R67 -/
  | inctrig (c : Channel)
  /-- 40_settings.md R68 -/
  | dectrig (c : Channel)
  /-- 40_settings.md R69 -/
  | gettrig (c : Channel)
  /-- 40_settings.md R70 -/
  | getedge (c : Channel)
  /-- 41_capture.md R72 -/
  | cap (c : Channel)
  /-- 41_capture.md R73 -/
  | rdst
  /-- 41_capture.md R74; `i` is the sample index of the 11-bit IDX field (30_encoding.md R48). -/
  | rdsmp (i : Nat)
  /-- 42_framer.md R75 -/
  | txacc
  /-- 42_framer.md R76 -/
  | txerr
  /-- 42_framer.md R77; `b` is the received byte of the DATA field. -/
  | rxb (b : Byte)
  /-- 42_framer.md R78 -/
  | rxto
deriving DecidableEq, Repr

/-- A word presented to the block: by the host or by the transport. The two interfaces are separate, so which of
them a word stands on is no part of its bits (00_scope.md R11). -/
inductive InputWord where
  | host (w : HostWord)
  | transport (e : EventWord)
deriving DecidableEq, Repr

/-- The input events of the step model (00_scope.md R11): `H(w16)`, `T(w10)` or `RESET`. -/
inductive Event where
  | word (w : InputWord)
  | reset
deriving DecidableEq, Repr

end Sys2Proof
end

