-- ==== Sys2Proof/WellFormed.lean ====
section
/-! DEFINITION. The checks an instruction of the syntax passes when some word encodes it. -/

namespace Sys2Proof

/-- The IDX field has 11 bits: 0..2047 (30_encoding.md R45, R48). Indices 2000..2047 are well formed; RDSMP answers
them with a reject (log entry 18). -/
def idxFits (i : Nat) : Bool := decide (i < 2048)

/-- Every operand is one its field can hold. The channel and the received byte cannot be out of range. -/
def wellFormed : Instr → Bool
  | .inctb _ => true
  | .dectb _ => true
  | .gettb _ => true
  | .tgledge _ => true
  | .inctrig _ => true
  | .dectrig _ => true
  | .gettrig _ => true
  | .getedge _ => true
  | .cap _ => true
  | .rdst => true
  | .rdsmp i => idxFits i
  | .txacc => true
  | .txerr => true
  | .rxb _ => true
  | .rxto => true

end Sys2Proof
end

