-- ==== Sys2Proof/Decode.lean ====
section
/-! DEFINITION. From words to instructions and back (30_encoding.md sections 1 and 2). -/

namespace Sys2Proof

/-! ## Fields -/

/-- OP, bits 3..0 of a host word (30_encoding.md R45). -/
def opOf (w : HostWord) : BitVec 4 := w.extractLsb' 0 4

/-- CH, bit 4 of a host word (30_encoding.md R45). -/
def chOf (w : HostWord) : BitVec 1 := w.extractLsb' 4 1

/-- IDX, bits 15..5 of a host word (30_encoding.md R45). -/
def idxOf (w : HostWord) : BitVec 11 := w.extractLsb' 5 11

/-- KIND, bits 9..8 of an event word (30_encoding.md R52). -/
def kindOf (e : EventWord) : BitVec 2 := e.extractLsb' 8 2

/-- DATA, bits 7..0 of an event word (30_encoding.md R52). -/
def dataOf (e : EventWord) : Byte := e.extractLsb' 0 8

/-- CH = 0 names channel 1, CH = 1 channel 2 (30_encoding.md R45, R47). -/
def channelOf (b : BitVec 1) : Channel := if b = 0#1 then .ch1 else .ch2

/-- The CH bit that names a channel. -/
def channelBit : Channel → BitVec 1
  | .ch1 => 0#1
  | .ch2 => 1#1

/-! ## Decoding -/

/-- Why a host word is illegal: the three clauses of 30_encoding.md R49. -/
inductive Illegal where
  /-- (a) OP is 0x0 or 0xC..0xF. -/
  | reservedOp
  /-- (b) OP is in 0x1..0xA and IDX is not 0. -/
  | idxNotZero
  /-- (c) OP is 0xA or 0xB and CH is not 0. -/
  | chNotZero
deriving DecidableEq, Repr

/-- The operation codes of 30_encoding.md R46, with the operand fields the operation uses. -/
def hostInstr (op : Nat) (c : Channel) (i : Nat) : Option Instr :=
  match op with
  | 0x1 => some (.inctb c)
  | 0x2 => some (.dectb c)
  | 0x3 => some (.gettb c)
  | 0x4 => some (.tgledge c)
  | 0x5 => some (.inctrig c)
  | 0x6 => some (.dectrig c)
  | 0x7 => some (.gettrig c)
  | 0x8 => some (.getedge c)
  | 0x9 => some (.cap c)
  | 0xA => some .rdst
  | 0xB => some (.rdsmp i)
  | _ => none

/-- A host word's instruction, or the clause of 30_encoding.md R49 that makes it illegal. -/
def decodeHost (w : HostWord) : Except Illegal Instr :=
  match hostInstr (opOf w).toNat (channelOf (chOf w)) (idxOf w).toNat with
  | none => .error .reservedOp
  | some i =>
    if (opOf w).toNat ≠ 0xB ∧ idxOf w ≠ 0#11 then .error .idxNotZero
    else if 0xA ≤ (opOf w).toNat ∧ chOf w ≠ 0#1 then .error .chNotZero
    else .ok i

/-- An event word's instruction; every KIND is used (30_encoding.md R52). The DATA bits of TXACC, TXERR and RXTO are
don't-care and are dropped. -/
def decodeTransport (e : EventWord) : Instr :=
  if kindOf e = 0#2 then .txacc
  else if kindOf e = 1#2 then .txerr
  else if kindOf e = 2#2 then .rxb (dataOf e)
  else .rxto

/-- The decoder: total on every word of either interface. -/
def decode : InputWord → Except Illegal Instr
  | .host w => decodeHost w
  | .transport e => .ok (decodeTransport e)

/-! ## Encoding -/

/-- The host word with the given fields (30_encoding.md R45). -/
def hostWord (op : BitVec 4) (ch : BitVec 1) (idx : BitVec 11) : HostWord := (idx ++ ch) ++ op

/-- The event word with the given fields (30_encoding.md R52). -/
def eventWord (kind : BitVec 2) (data : Byte) : EventWord := kind ++ data

/-- The word of a well-formed instruction; the don't-care DATA bits are 0, as 30_encoding.md R62 writes the event
words. -/
def encode : Instr → InputWord
  | .inctb c => .host (hostWord 0x1#4 (channelBit c) 0#11)
  | .dectb c => .host (hostWord 0x2#4 (channelBit c) 0#11)
  | .gettb c => .host (hostWord 0x3#4 (channelBit c) 0#11)
  | .tgledge c => .host (hostWord 0x4#4 (channelBit c) 0#11)
  | .inctrig c => .host (hostWord 0x5#4 (channelBit c) 0#11)
  | .dectrig c => .host (hostWord 0x6#4 (channelBit c) 0#11)
  | .gettrig c => .host (hostWord 0x7#4 (channelBit c) 0#11)
  | .getedge c => .host (hostWord 0x8#4 (channelBit c) 0#11)
  | .cap c => .host (hostWord 0x9#4 (channelBit c) 0#11)
  | .rdst => .host (hostWord 0xA#4 0#1 0#11)
  | .rdsmp i => .host (hostWord 0xB#4 0#1 (BitVec.ofNat 11 i))
  | .txacc => .transport (eventWord 0#2 0#8)
  | .txerr => .transport (eventWord 1#2 0#8)
  | .rxb b => .transport (eventWord 2#2 b)
  | .rxto => .transport (eventWord 3#2 0#8)

/-! ## The opcode table's numbering -/

/-- The word that `w` stands for when spec/opcode_table.json gives its row `nbits` bits. A row of at most 10 bits is
an event word. The table's 10-bit rows in whole bytes have 16 bits like the host rows, so a 16-bit `w` that is no
legal host word and fits 10 bits is read as the event word (DESIGN CHOICE, log entry 14). -/
def tableWord (nbits w : Nat) : InputWord :=
  if nbits ≤ 10 then .transport (BitVec.ofNat 10 w)
  else
    match decodeHost (BitVec.ofNat 16 w) with
    | .ok _ => .host (BitVec.ofNat 16 w)
    | .error _ =>
      if w < 1024 then .transport (BitVec.ofNat 10 w) else .host (BitVec.ofNat 16 w)

/-- The instruction the decoder reads from a word numbered as spec/opcode_table.json numbers it. -/
def decodeTableWord (nbits w : Nat) : Option Instr :=
  match decode (tableWord nbits w) with
  | .ok i => some i
  | .error _ => none

end Sys2Proof
end

