-- ==== Sys2Proof/Config.lean ====
section
/-! DEFINITION. What an implementation fixes, and the values the spec leaves free. The link parameters of 00_scope.md
R10 (115200 baud, a reference read timeout of 2.0 seconds, the device path /dev/ttyUSB0) belong to the transport; no
rule of the block depends on them, and they stand here as documentation only. -/

namespace Sys2Proof

/-- TRIG_POLICY (00_scope.md R8): how the trigger mutators treat a level off the grid 128 + 256k. -/
inductive TrigPolicy where
  | saturate
  | literal
deriving DecidableEq, Repr

/-- The three parameters of the block (00_scope.md R7, R8, R9), fixed for its life (10_state.md R29). -/
structure Params where
  /-- TRIG_DEFAULT (R7), the reset value of both trigger levels. -/
  trigDefault : BitVec 13
  /-- TRIG_POLICY (R8). -/
  trigPolicy : TrigPolicy
  /-- LEGACY_START_CHECK (R9). -/
  legacyStartCheck : Bool
deriving DecidableEq, Repr

/-- The configuration of State.reset: TRIG_DEFAULT 2048, the value of the spec's test vectors (DESIGN CHOICE, log
entry 2); SATURATE and false, the spec's own defaults (DEDUCED, log entry 3). -/
def Config.params : Params := { trigDefault := 2048#13, trigPolicy := .saturate, legacyStartCheck := false }

/-- FREE VALUE (log entry 7): the content of byte `a` of FB while nothing has written it since the reset numbered
`epoch` (10_state.md R25, 93 I7: any value). -/
opaque Config.freeFrameByte (epoch a : Nat) : Byte

/-- FREE VALUE (log entry 8): the content of byte `k` of CMD_BUF that the latch or reset numbered `epoch` left
unspecified (10_state.md R22, 93 I6 and I8: any value). -/
opaque Config.freeCmdByte (epoch k : Nat) : Byte

/-- FREE VALUE (log entry 11): what DECTRIG under LITERAL leaves where the level minus 256 would be below zero, which
40_settings.md R68 says never happens from a legal configuration. -/
opaque Config.trigBelowZero (level : BitVec 13) : BitVec 13

end Sys2Proof
end

