-- ==== Sys2Proof/Machine/Constants.lean ====
section
/-! DEFINITION. The block's fixed constants (00_scope.md R6) and the characters it uses (00_scope.md R14). -/

namespace Sys2Proof.Machine

/-- FRAME_LEN, the size of FB. -/
abbrev frameLen : Nat := 4003

/-- The size of CMD_BUF (10_state.md R22). -/
abbrev cmdSize : Nat := 10

/-- N_SAMPLES. -/
abbrev nSamples : Nat := 2000

/-- PAYLOAD_FIRST, the frame byte where sample 0 starts. -/
abbrev payloadFirst : Nat := 2

/-- The frame byte of END_MARK. -/
abbrev endMarkAt : Nat := 4002

/-- TB_MAX; TB_MIN is 0. -/
abbrev tbMax : Nat := 6

/-- TRIG_MIN. -/
abbrev trigMin : Nat := 128

/-- TRIG_MAX. -/
abbrev trigMax : Nat := 3968

/-- TRIG_STEP. -/
abbrev trigStep : Nat := 256

/-- LO_MASK. -/
abbrev loMask : Byte := 0x7F#8

/-- HI_MASK. -/
abbrev hiMask : Byte := 0x1F#8

/-- HI_WEIGHT. -/
abbrev hiWeight : Nat := 128

/-- '0', the first of the digit characters (00_scope.md R14; UNVERIFIED, log entry 13; so the four below). -/
abbrev asciiZero : Byte := 0x30#8

/-- 'S', the first character of CMD_PREFIX and START_MARK. -/
abbrev asciiS : Byte := 0x53#8

/-- 'T', the second character of CMD_PREFIX. -/
abbrev asciiT : Byte := 0x54#8

/-- 'M', MODE_MARK. -/
abbrev asciiM : Byte := 0x4D#8

/-- 'E', CMD_SUFFIX and END_MARK. -/
abbrev asciiE : Byte := 0x45#8

end Sys2Proof.Machine
end

