-- ==== Sys2Proof/Machine/State.lean ====
section
/-! DEFINITION. The state of the block as plain data (10_state.md R15), its outputs, the reasons a step can stop, and
the state after reset. -/

namespace Sys2Proof.Machine

/-- EDGE[c] (10_state.md R18). -/
inductive Edge where
  | falling
  | rising
deriving DecidableEq, Repr

/-- STATE (10_state.md R19); the value 3 is never reached (log entry 12). -/
inductive Phase where
  | idle
  | tx
  | rx
deriving DecidableEq, Repr

/-- CODE (10_state.md R20, 30_encoding.md R61); the values 6 and 7 are never written (log entry 12). -/
inductive Code where
  | none
  | pending
  | ok
  | shortRead
  | framingError
  | transportError
deriving DecidableEq, Repr

/-- The settings registers of one channel (10_state.md R16, R17, R18). -/
structure Settings where
  /-- TB[c] -/
  tb : BitVec 3
  /-- TRIG[c] -/
  trig : BitVec 13
  /-- EDGE[c] -/
  edge : Edge
deriving DecidableEq, Repr

/-- A buffer of bytes: (index, byte) pairs, indices strictly rising. An index not listed is one that nothing has
written (Memory.wf in Machine/Ops.lean). -/
abbrev Mem := List Host.Cell

/-- Why a host operation is rejected (30_encoding.md R51). -/
inductive Reason where
  | illegal
  | busy
  | noData
  | range
deriving DecidableEq, Repr

/-- The response to a host operation (30_encoding.md R50). -/
inductive Resp where
  | ack (v : Value)
  | rej (r : Reason)
deriving DecidableEq, Repr

/-- The outputs of a step (00_scope.md R11). -/
inductive Output where
  | resp (r : Resp)
  | sent (b : Byte)
  | done (ch : Channel) (code : Code)
deriving DecidableEq, Repr

/-- The state. The first ten fields are the tuple of 10_state.md R15; the rest are the model's own. -/
structure State where
  /-- TB[1], TRIG[1], EDGE[1] -/
  ch1 : Settings
  /-- TB[2], TRIG[2], EDGE[2] -/
  ch2 : Settings
  /-- STATE -/
  phase : Phase
  /-- CODE -/
  code : Code
  /-- LCH -/
  lch : Channel
  /-- CMD_BUF[0..9] -/
  cmdBuf : Mem
  /-- CMD_LEN -/
  cmdLen : BitVec 4
  /-- TX_IDX -/
  txIdx : BitVec 4
  /-- RX_CNT -/
  rxCnt : BitVec 13
  /-- FB[0..4002] -/
  fb : Mem
  /-- The parameters; no step writes them (10_state.md R29; log entry 1). -/
  params : Params
  /-- The input events to come, oldest first (00_scope.md R11; log entry 4). -/
  inbox : List Event
  /-- The outputs of the last step (00_scope.md R11; log entry 6). -/
  out : List Output
  /-- Keys the free values of CMD_BUF bytes that are unspecified (log entry 8). -/
  cmdEpoch : Nat
  /-- Keys the free values of FB bytes that are unspecified (log entry 7). -/
  fbEpoch : Nat
deriving DecidableEq, Repr

/-- Why the machine stops. No run from reset raises either: 20_memory.md R32 says that such an index never arises. -/
inductive Fault where
  /-- Raised by RXB in RX with RX_CNT at 4003 or more: FB has no such byte. Safe (log entry 10). -/
  | frameIndex
  /-- Raised by TXACC in TX with TX_IDX at 10 or more: CMD_BUF has no such byte. Safe (log entry 10). -/
  | cmdIndex
deriving DecidableEq, Repr

/-- Why a step gives no meaning. -/
inductive Refusal where
  /-- Raised by the arm of `exec` of an instruction that is not modelled yet. Safe. No arm raises it now. -/
  | notModelled (mnemonic : String)
  /-- Raised by the step, for every event, when the parameters are outside the range of 00_scope.md R7. Safe (log
  entry 17); the spec itself refuses such a configuration. -/
  | illegalConfig
deriving DecidableEq, Repr

/-- What the step finds to do. -/
inductive Fetched where
  /-- There is nothing to run: the configuration has no meaning. -/
  | refuse (r : Refusal)
  /-- The event needs no instruction: RESET, an illegal host word, or no event at all. -/
  | settled (s : State)
  /-- The instruction of the event's word, and the state with the event taken. -/
  | run (i : Instr) (s : State)
deriving DecidableEq, Repr

/-- The state right after reset (70_reset_and_hazards.md R104, R106), for the configuration Config.params. CMD_BUF and
FB list nothing: every byte is unspecified. No event is pending (log entry 4). -/
def State.reset : State where
  ch1 := { tb := 3#3, trig := Config.params.trigDefault, edge := .rising }
  ch2 := { tb := 3#3, trig := Config.params.trigDefault, edge := .rising }
  phase := .idle
  code := .none
  lch := .ch1
  cmdBuf := []
  cmdLen := 0#4
  txIdx := 0#4
  rxCnt := 0#13
  fb := []
  params := Config.params
  inbox := []
  out := []
  cmdEpoch := 0
  fbEpoch := 0

end Sys2Proof.Machine
end

