-- ==== Sys2Proof/Machine/Ops.lean ====
section
/-! DEFINITION. The named operations over buffers, registers, outputs and input events; the failure entry `finish`;
RESET; and taking the next event. -/

namespace Sys2Proof.Machine

/-! ## Buffers -/

/-- The byte recorded at index `a`, if something wrote it. -/
def memRead : Mem → Nat → Option Byte
  | [], _ => none
  | (b, v) :: m, a => if a = b then some v else memRead m a

/-- Index `a` set to `v`, the list kept strictly rising. -/
def memWrite : Mem → Nat → Byte → Mem
  | [], a, v => [(a, v)]
  | (b, w) :: m, a, v =>
    if a < b then (a, v) :: (b, w) :: m
    else if a = b then (a, v) :: m
    else (b, w) :: memWrite m a v

/-- The buffer that holds `bs` at indices `k`, `k + 1`, … and nothing else. -/
def memFrom : Nat → List Byte → Mem
  | _, [] => []
  | k, b :: bs => (k, b) :: memFrom (k + 1) bs

/-- Indices strictly rising, from `lo` on. -/
def risingFrom : Nat → Mem → Bool
  | _, [] => true
  | lo, (a, _) :: m => decide (lo ≤ a) && risingFrom (a + 1) m

/-- The canonical form of a buffer of `size` bytes: indices strictly rising and below `size`. -/
def Memory.wf (size : Nat) (m : Mem) : Bool := risingFrom 0 m && m.all (fun c => decide (c.1 < size))

/-- MemRead(FB, a, 1) (20_memory.md R32). A byte nothing has written is any value (log entry 7). -/
def fbByte (s : State) (a : Nat) : Byte :=
  match memRead s.fb a with
  | some v => v
  | none => Config.freeFrameByte s.fbEpoch a

/-- CMD_BUF[k] (10_state.md R22). A byte nothing has written is any value (log entry 8). -/
def cmdByte (s : State) (k : Nat) : Byte :=
  match memRead s.cmdBuf k with
  | some v => v
  | none => Config.freeCmdByte s.cmdEpoch k

/-! ## Registers -/

/-- The settings registers of channel `c` (20_memory.md R31, the channel space). -/
def settings (s : State) : Channel → Settings
  | .ch1 => s.ch1
  | .ch2 => s.ch2

/-- The settings registers of channel `c` replaced; the other channel's are left. -/
def setSettings (s : State) (c : Channel) (v : Settings) : State :=
  match c with
  | .ch1 => { s with ch1 := v }
  | .ch2 => { s with ch2 := v }

/-- TB[c] <- v -/
def setTb (s : State) (c : Channel) (v : BitVec 3) : State := setSettings s c { settings s c with tb := v }

/-- TRIG[c] <- v -/
def setTrig (s : State) (c : Channel) (v : BitVec 13) : State := setSettings s c { settings s c with trig := v }

/-- EDGE[c] <- v -/
def setEdge (s : State) (c : Channel) (v : Edge) : State := setSettings s c { settings s c with edge := v }

/-! ## Outputs and the ends of a step -/

/-- The outputs of this step are `o` (00_scope.md R11). -/
def withOut (s : State) (o : List Output) : State := { s with out := o }

/-- `respond ACK(v)` (00_scope.md R13). -/
def respond (s : State) (v : Value) : Host.Outcome State Fault Refusal := .next (withOut s [.resp (.ack v)])

/-- `raise Reject(reason)`: no state element changes (30_encoding.md R51). -/
def reject (s : State) (r : Reason) : Host.Outcome State Fault Refusal := .next (withOut s [.resp (.rej r)])

/-- An ignored transport event: no state change and no output (30_encoding.md R53). -/
def ignoreEvent (s : State) : Host.Outcome State Fault Refusal := .next (withOut s [])

/-- `finish(code)` (42_framer.md R83), the one entry of every failure and of success: CODE and STATE are written, Done
is emitted with the channel of LCH, and everything else is left (60_exceptions.md R93). There is no return from a
failure (60_exceptions.md R94). -/
def finish (s : State) (code : Code) : State :=
  withOut { s with code := code, phase := .idle } [.done s.lch code]

/-- MemWrite(FB, RX_CNT, 1, b) and RX_CNT <- RX_CNT + 1 (42_framer.md R77). -/
def storeFrameByte (s : State) (b : Byte) : State :=
  { s with fb := memWrite s.fb s.rxCnt.toNat b, rxCnt := s.rxCnt + 1#13 }

/-- TX_IDX <- TX_IDX + 1, and STATE <- RX when that is CMD_LEN (42_framer.md R75). -/
def advanceTx (s : State) : State :=
  { s with txIdx := s.txIdx + 1#4, phase := if s.txIdx + 1#4 = s.cmdLen then .rx else s.phase }

/-- The register writes of an accepted CAP (41_capture.md R72) with the request `r` of channel `c`. The bytes of
CMD_BUF after the request are unspecified (10_state.md R22). -/
def latchCapture (s : State) (c : Channel) (r : List Byte) : State :=
  { s with
    cmdBuf := memFrom 0 r
    cmdEpoch := s.cmdEpoch + 1
    cmdLen := BitVec.ofNat 4 r.length
    txIdx := 0#4
    rxCnt := 0#13
    lch := c
    code := .pending
    phase := .tx }

/-! ## Reset, configuration and events -/

/-- The range of the parameters (00_scope.md R7). -/
def paramsLegal (p : Params) : Bool :=
  match p.trigPolicy with
  | .saturate => decide (128 ≤ p.trigDefault.toNat) && decide (p.trigDefault.toNat ≤ 3968)
  | .literal => decide (p.trigDefault.toNat ≤ 4095) && decide (p.trigDefault.toNat % 256 ≤ 128)

/-- The settings registers after reset (70_reset_and_hazards.md R104). -/
def resetSettings (p : Params) : Settings := { tb := 3#3, trig := p.trigDefault, edge := .rising }

/-- RESET (70_reset_and_hazards.md R104, R105): every state element to its reset value, no output. The parameters stay
(10_state.md R29) and so do the events still to come (log entry 16). -/
def resetBlock (s : State) : State where
  ch1 := resetSettings s.params
  ch2 := resetSettings s.params
  phase := .idle
  code := .none
  lch := .ch1
  cmdBuf := []
  cmdLen := 0#4
  txIdx := 0#4
  rxCnt := 0#13
  fb := []
  params := s.params
  inbox := s.inbox
  out := []
  cmdEpoch := s.cmdEpoch + 1
  fbEpoch := s.fbEpoch + 1

/-- The events after the head one have still to come. -/
def withInbox (s : State) (es : List Event) : State := { s with inbox := es }

/-- Takes the next input event (00_scope.md R11). An illegal host word is rejected with ILLEGAL (30_encoding.md R49);
RESET is done here, being no word; with no event the block waits (00_scope.md R3; log entry 5). A configuration outside
the range of 00_scope.md R7 is refused (log entry 17). -/
def fetch (s : State) : Fetched :=
  if paramsLegal s.params then
    match s.inbox with
    | [] => .settled (withOut s [])
    | .reset :: es => .settled (resetBlock (withInbox s es))
    | .word w :: es =>
      match decode w with
      | .ok i => .run i (withInbox s es)
      | .error _ => .settled (withOut (withInbox s es) [.resp (.rej .illegal)])
  else .refuse .illegalConfig

end Sys2Proof.Machine
end

