-- ==== Sys2Proof/Machine/Flags.lean ====
section
/-! DEFINITION. Status and level views of the state, the marker checks, and the code values. The block has no condition
flags (40_settings.md); CODE is its only status. -/

namespace Sys2Proof.Machine

/-- The value of CODE (30_encoding.md R61). -/
def codeBits : Code → BitVec 3
  | .none => 0#3
  | .pending => 1#3
  | .ok => 2#3
  | .shortRead => 3#3
  | .framingError => 4#3
  | .transportError => 5#3

/-- The value of STATE (10_state.md R19). -/
def phaseBits : Phase → BitVec 2
  | .idle => 0#2
  | .tx => 1#2
  | .rx => 2#2

/-- STATUS (30_encoding.md R60): zext_32(STATE ++ RX_CNT ++ LCH ++ CODE). -/
def status (s : State) : Value :=
  (((phaseBits s.phase ++ s.rxCnt) ++ channelBit s.lch) ++ codeBits s.code).setWidth 32

/-- BUSY (10_state.md R27). -/
def busy (s : State) : Bool := decide (s.phase ≠ .idle)

/-- TX_VALID (10_state.md R27). -/
def txValid (s : State) : Bool := decide (s.phase = .tx)

/-- TX_DATA (10_state.md R27): CMD_BUF[TX_IDX] when TX_VALID, and no defined value otherwise (log entry 9). -/
def txData (s : State) : Option Byte := if txValid s then some (cmdByte s s.txIdx.toNat) else none

/-- `markers_ok()` (42_framer.md R80). -/
def markersOk (s : State) : Bool :=
  decide (fbByte s 0 = asciiS) && decide (fbByte s 1 = asciiM) && decide (fbByte s endMarkAt = asciiE)

/-- `markers_legacy()` (42_framer.md R81): byte 0 is not checked. -/
def markersLegacy (s : State) : Bool := decide (fbByte s 1 = asciiM) && decide (fbByte s endMarkAt = asciiE)

/-- The marker predicate that LEGACY_START_CHECK selects (42_framer.md R79). -/
def markersPass (s : State) : Bool := if s.params.legacyStartCheck then markersLegacy s else markersOk s

/-- The reject reason codes (30_encoding.md R51). -/
def reasonCode : Reason → Value
  | .illegal => 1#32
  | .busy => 2#32
  | .noData => 3#32
  | .range => 4#32

/-- A response as a 33-bit word (30_encoding.md R50). -/
def respWord : Resp → BitVec 33
  | .ack v => 0#1 ++ v
  | .rej r => 1#1 ++ reasonCode r

end Sys2Proof.Machine
end

