-- ==== Sys2Proof/Machine/Operands.lean ====
section
/-! DEFINITION. The operand forms: channel numbers, decimal digits, the request string and its builder, and the sample
view of the frame buffer. -/

namespace Sys2Proof.Machine

/-- The channel number c = CH + 1 (30_encoding.md R47). -/
def channelNumber : Channel → Nat
  | .ch1 => 1
  | .ch2 => 2

/-- `digit(d)` (30_encoding.md R55), for d in 0..9. -/
def digit (d : Nat) : Byte := asciiZero + BitVec.ofNat 8 d

/-- The decimal digits of `v`, most significant first, for a `v` of at most `fuel` digits. -/
def decDigits : Nat → Nat → List Byte
  | 0, _ => []
  | fuel + 1, v => if v < 10 then [digit v] else decDigits fuel (v / 10) ++ [digit (v % 10)]

/-- `dec(v)` (30_encoding.md R56) of a 13-bit level: the shortest decimal string. -/
def dec (v : BitVec 13) : List Byte := decDigits 13 v.toNat

/-- The value of EDGE as a bit: RISING 1, FALLING 0 (10_state.md R18). -/
def edgeBit : Edge → BitVec 1
  | .falling => 0#1
  | .rising => 1#1

/-- `1 - EDGE` (40_settings.md R66). -/
def toggleEdge : Edge → Edge
  | .falling => .rising
  | .rising => .falling

/-- `flag(e)` (30_encoding.md R55). -/
def flag (e : Edge) : Byte := digit (edgeBit e).toNat

/-- `build(c)` (41_capture.md R71): the request string of channel `c` (30_encoding.md R54). -/
def build (s : State) (c : Channel) : List Byte :=
  [asciiS, asciiT, digit (settings s c).tb.toNat, digit (channelNumber c)] ++ dec (settings s c).trig ++
    [flag (settings s c).edge, asciiE]

/-- INCTB's new value (40_settings.md R63). -/
def incTb (t : BitVec 3) : BitVec 3 := if t.toNat < tbMax then t + 1#3 else t

/-- DECTB's new value (40_settings.md R64). -/
def decTb (t : BitVec 3) : BitVec 3 := if 0 < t.toNat then t - 1#3 else t

/-- INCTRIG's new value (40_settings.md R67). -/
def incTrig (p : TrigPolicy) (v : BitVec 13) : BitVec 13 :=
  if v.toNat < trigMax then
    match p with
    | .saturate => BitVec.ofNat 13 (min (v.toNat + trigStep) trigMax)
    | .literal => BitVec.ofNat 13 (v.toNat + trigStep)
  else v

/-- DECTRIG's new value (40_settings.md R68). Under LITERAL a result below zero is a free value (log entry 11). Under
SATURATE the difference is cut off at zero, below the bound 128 it is then raised to. -/
def decTrig (p : TrigPolicy) (v : BitVec 13) : BitVec 13 :=
  if trigMin < v.toNat then
    match p with
    | .saturate => BitVec.ofNat 13 (max (v.toNat - trigStep) trigMin)
    | .literal => if trigStep ≤ v.toNat then BitVec.ofNat 13 (v.toNat - trigStep) else Config.trigBelowZero v
  else v

/-- The 12-bit value of a byte pair (30_encoding.md R59): (lo & 0x7F) + (hi & 0x1F) * 128. -/
def unpack (lo hi : Byte) : BitVec 12 := BitVec.ofNat 12 ((lo &&& loMask).toNat + (hi &&& hiMask).toNat * hiWeight)

/-- `sample(i)` (42_framer.md R82), computed from FB on each read (10_state.md R29). -/
def sample (s : State) (i : Nat) : BitVec 12 :=
  unpack (fbByte s (2 * i + payloadFirst)) (fbByte s (2 * i + payloadFirst + 1))

end Sys2Proof.Machine
end

