-- ==== Sys2Proof/Machine/Capture.lean ====
section
/-! DEFINITION. The meanings of CAP, RDST and RDSMP (41_capture.md). -/

namespace Sys2Proof.Machine

/-- CAP (41_capture.md R72): BUSY while a capture is in flight, else the settings snapshot of 20_memory.md R42 is
latched and the capture starts. -/
def execCap (c : Channel) (s : State) : Host.Outcome State Fault Refusal :=
  if s.phase = .idle then respond (latchCapture s c (build s c)) 0#32 else reject s .busy

/-- RDST (41_capture.md R73). -/
def execRdst (s : State) : Host.Outcome State Fault Refusal := respond s (status s)

/-- RDSMP (41_capture.md R74): RANGE before NODATA (60_exceptions.md R91). -/
def execRdsmp (i : Nat) (s : State) : Host.Outcome State Fault Refusal :=
  if nSamples ≤ i then reject s .range
  else if s.code = .ok then respond s ((sample s i).setWidth 32)
  else reject s .noData

end Sys2Proof.Machine
end

