-- ==== Sys2Proof/Machine/Framer.lean ====
section
/-! DEFINITION. The meanings of the four transport events (42_framer.md). -/

namespace Sys2Proof.Machine

/-- TXACC (42_framer.md R75): the transport takes TX_DATA. -/
def execTxacc (s : State) : Host.Outcome State Fault Refusal :=
  if s.phase = .tx then
    if s.txIdx.toNat < cmdSize then .next (withOut (advanceTx s) [.sent (cmdByte s s.txIdx.toNat)])
    else .fault .cmdIndex
  else ignoreEvent s

/-- TXERR (42_framer.md R76). -/
def execTxerr (s : State) : Host.Outcome State Fault Refusal :=
  if s.phase = .tx then .next (finish s .transportError) else ignoreEvent s

/-- `complete_frame()` (42_framer.md R79). -/
def completeFrame (s : State) : State := finish s (if markersPass s then .ok else .framingError)

/-- RXB (42_framer.md R77): the byte is stored; the 4003rd ends the capture in the same step. -/
def execRxb (b : Byte) (s : State) : Host.Outcome State Fault Refusal :=
  if s.phase = .rx then
    if s.rxCnt.toNat < frameLen then
      if s.rxCnt.toNat + 1 = frameLen then .next (completeFrame (storeFrameByte s b))
      else .next (withOut (storeFrameByte s b) [])
    else .fault .frameIndex
  else ignoreEvent s

/-- RXTO (42_framer.md R78). -/
def execRxto (s : State) : Host.Outcome State Fault Refusal :=
  if s.phase = .rx then .next (finish s .shortRead) else ignoreEvent s

end Sys2Proof.Machine
end

