-- ==== Sys2Proof/Machine/SettingsOps.lean ====
section
/-! DEFINITION. The meanings of the eight settings operations (40_settings.md). Each is accepted in every STATE and
answers ACK; an illegal word never reaches them (Machine/Ops.lean, fetch). -/

namespace Sys2Proof.Machine

/-- INCTB (40_settings.md R63). -/
def execInctb (c : Channel) (s : State) : Host.Outcome State Fault Refusal :=
  respond (setTb s c (incTb (settings s c).tb)) 0#32

/-- DECTB (40_settings.md R64). -/
def execDectb (c : Channel) (s : State) : Host.Outcome State Fault Refusal :=
  respond (setTb s c (decTb (settings s c).tb)) 0#32

/-- GETTB (40_settings.md R65). -/
def execGettb (c : Channel) (s : State) : Host.Outcome State Fault Refusal :=
  respond s ((settings s c).tb.setWidth 32)

/-- TGLEDGE (40_settings.md R66). -/
def execTgledge (c : Channel) (s : State) : Host.Outcome State Fault Refusal :=
  respond (setEdge s c (toggleEdge (settings s c).edge)) 0#32

/-- INCTRIG (40_settings.md R67). -/
def execInctrig (c : Channel) (s : State) : Host.Outcome State Fault Refusal :=
  respond (setTrig s c (incTrig s.params.trigPolicy (settings s c).trig)) 0#32

/-- DECTRIG (40_settings.md R68). -/
def execDectrig (c : Channel) (s : State) : Host.Outcome State Fault Refusal :=
  respond (setTrig s c (decTrig s.params.trigPolicy (settings s c).trig)) 0#32

/-- GETTRIG (40_settings.md R69). -/
def execGettrig (c : Channel) (s : State) : Host.Outcome State Fault Refusal :=
  respond s ((settings s c).trig.setWidth 32)

/-- GETEDGE (40_settings.md R70). -/
def execGetedge (c : Channel) (s : State) : Host.Outcome State Fault Refusal :=
  respond s ((edgeBit (settings s c).edge).setWidth 32)

end Sys2Proof.Machine
end

