-- ==== Sys2Proof/Machine/Dispatch.lean ====
section
/-! DEFINITION. One arm per instruction, each a direct call of its meaning. -/

namespace Sys2Proof.Machine

def exec (i : Instr) (s : State) : Host.Outcome State Fault Refusal :=
  match i with
  | .inctb c => Sys2Proof.Machine.execInctb c s
  | .dectb c => Sys2Proof.Machine.execDectb c s
  | .gettb c => Sys2Proof.Machine.execGettb c s
  | .tgledge c => Sys2Proof.Machine.execTgledge c s
  | .inctrig c => Sys2Proof.Machine.execInctrig c s
  | .dectrig c => Sys2Proof.Machine.execDectrig c s
  | .gettrig c => Sys2Proof.Machine.execGettrig c s
  | .getedge c => Sys2Proof.Machine.execGetedge c s
  | .cap c => Sys2Proof.Machine.execCap c s
  | .rdst => Sys2Proof.Machine.execRdst s
  | .rdsmp k => Sys2Proof.Machine.execRdsmp k s
  | .txacc => Sys2Proof.Machine.execTxacc s
  | .txerr => Sys2Proof.Machine.execTxerr s
  | .rxb b => Sys2Proof.Machine.execRxb b s
  | .rxto => Sys2Proof.Machine.execRxto s

end Sys2Proof.Machine
end

