-- ==== Sys2Proof/Machine/Step.lean ====
section
/-! DEFINITION. One step: the next input event is taken and, if it is a legal word, its instruction runs
(00_scope.md R11). -/

namespace Sys2Proof.Machine

/-- One atomic step of the block. -/
def step (s : State) : Host.Outcome State Fault Refusal :=
  match fetch s with
  | .refuse r => .refused r
  | .settled t => .next t
  | .run i t => exec i t

/-- `s` with the word `w` of an opcode-table row of `nbits` bits as its next input event (log entry 4: a program is the
list of events the environment presents). -/
def State.withFetchWord (s : State) (nbits w : Nat) : State :=
  withInbox s (.word (tableWord nbits w) :: s.inbox)

end Sys2Proof.Machine
end

