-- ==== Sys2Proof/Safety.lean ====
section
/-! DEFINITION. The terms in which statements are made: what a state keeps, when a host word is rejected, runs of
instructions with their outputs, and the invariants of 10_state.md R28. -/

namespace Sys2Proof.Safety

open Sys2Proof.Machine

/-! ## What is kept from one state to another -/

/-- TB, TRIG and EDGE of both channels are kept. -/
def SettingsKept (s t : State) : Prop := t.ch1 = s.ch1 ∧ t.ch2 = s.ch2

/-- The other channel's TB, TRIG and EDGE are kept. -/
def OtherChannelKept (c : Channel) (s t : State) : Prop := ∀ d, d ≠ c → settings t d = settings s d

/-- STATE, CODE, LCH, CMD_LEN, TX_IDX and RX_CNT are kept. -/
def CaptureKept (s t : State) : Prop :=
  t.phase = s.phase ∧ t.code = s.code ∧ t.lch = s.lch ∧ t.cmdLen = s.cmdLen ∧ t.txIdx = s.txIdx ∧ t.rxCnt = s.rxCnt

/-- Every byte of FB reads as before. -/
def FrameKept (s t : State) : Prop := ∀ a, fbByte t a = fbByte s a

/-- Every byte of CMD_BUF reads as before. -/
def CmdKept (s t : State) : Prop := ∀ k, cmdByte t k = cmdByte s k

/-- The parameters and the events still to come are kept. -/
def EnvKept (s t : State) : Prop := t.params = s.params ∧ t.inbox = s.inbox

/-- Everything but the settings registers of channel `c` is kept. -/
def RestKept (c : Channel) (s t : State) : Prop :=
  OtherChannelKept c s t ∧ CaptureKept s t ∧ FrameKept s t ∧ CmdKept s t ∧ EnvKept s t

/-- Everything the spec calls state is kept, and so are the parameters and the events still to come. -/
def AllKept (s t : State) : Prop :=
  SettingsKept s t ∧ CaptureKept s t ∧ FrameKept s t ∧ CmdKept s t ∧ EnvKept s t

/-! ## Host words at the level of the step -/

/-- Presented with the host word `w` in the legal configuration of `s`, the step answers REJ(r) and changes nothing but
taking the event. -/
def StepRejects (w : HostWord) (r : Reason) : Prop :=
  ∀ (s : State) (es : List Event), paramsLegal s.params = true → s.inbox = .word (.host w) :: es →
    ∃ t, step s = .next t ∧ t.out = [.resp (.rej r)] ∧ AllKept (withInbox s es) t

/-- Bits `lo + n - 1` down to `lo` of a value, as a number. -/
def bitsAt {w : Nat} (v : BitVec w) (lo n : Nat) : Nat := v.toNat / 2 ^ lo % 2 ^ n

/-- Every host word with this OP and a non-zero IDX is rejected with ILLEGAL. -/
def NonzeroIdxIllegal (op : Nat) : Prop :=
  ∀ w : HostWord, bitsAt w 0 4 = op → bitsAt w 5 11 ≠ 0 → StepRejects w .illegal

/-! ## Runs -/

/-- Runs instructions one after the other, in the order given, and collects their outputs; `none` if one stops. -/
def runInstrs : List Instr → State → Option (State × List Output)
  | [], s => some (s, [])
  | i :: is, s =>
    match exec i s with
    | .next t => (runInstrs is t).map (fun p => (p.1, t.out ++ p.2))
    | .fault _ => none
    | .refused _ => none

/-! ## Kinds of instruction -/

/-- The host operations: the instructions of host words (30_encoding.md R46). -/
def isHostOp : Instr → Bool
  | .inctb _ => true
  | .dectb _ => true
  | .gettb _ => true
  | .tgledge _ => true
  | .inctrig _ => true
  | .dectrig _ => true
  | .gettrig _ => true
  | .getedge _ => true
  | .cap _ => true
  | .rdst => true
  | .rdsmp _ => true
  | .txacc => false
  | .txerr => false
  | .rxb _ => false
  | .rxto => false

/-- The reads: host operations that return a value (20_memory.md R39). -/
def isHostRead : Instr → Bool
  | .inctb _ => false
  | .dectb _ => false
  | .gettb _ => true
  | .tgledge _ => false
  | .inctrig _ => false
  | .dectrig _ => false
  | .gettrig _ => true
  | .getedge _ => true
  | .cap _ => false
  | .rdst => true
  | .rdsmp _ => true
  | .txacc => false
  | .txerr => false
  | .rxb _ => false
  | .rxto => false

/-- The writers of the settings registers (10_state.md R15). -/
def isMutator : Instr → Bool
  | .inctb _ => true
  | .dectb _ => true
  | .gettb _ => false
  | .tgledge _ => true
  | .inctrig _ => true
  | .dectrig _ => true
  | .gettrig _ => false
  | .getedge _ => false
  | .cap _ => false
  | .rdst => false
  | .rdsmp _ => false
  | .txacc => false
  | .txerr => false
  | .rxb _ => false
  | .rxto => false

/-- The eight settings operations (40_settings.md). -/
def isSettingsOp : Instr → Bool
  | .inctb _ => true
  | .dectb _ => true
  | .gettb _ => true
  | .tgledge _ => true
  | .inctrig _ => true
  | .dectrig _ => true
  | .gettrig _ => true
  | .getedge _ => true
  | .cap _ => false
  | .rdst => false
  | .rdsmp _ => false
  | .txacc => false
  | .txerr => false
  | .rxb _ => false
  | .rxto => false

/-- The request for a capture. -/
def isCap : Instr → Bool
  | .inctb _ => false
  | .dectb _ => false
  | .gettb _ => false
  | .tgledge _ => false
  | .inctrig _ => false
  | .dectrig _ => false
  | .gettrig _ => false
  | .getedge _ => false
  | .cap _ => true
  | .rdst => false
  | .rdsmp _ => false
  | .txacc => false
  | .txerr => false
  | .rxb _ => false
  | .rxto => false

/-- The four transport events, each with the phase in which it has a meaning (30_encoding.md R53). -/
def meaningPhase : Instr → Option Phase
  | .inctb _ => none
  | .dectb _ => none
  | .gettb _ => none
  | .tgledge _ => none
  | .inctrig _ => none
  | .dectrig _ => none
  | .gettrig _ => none
  | .getedge _ => none
  | .cap _ => none
  | .rdst => none
  | .rdsmp _ => none
  | .txacc => some .tx
  | .txerr => some .tx
  | .rxb _ => some .rx
  | .rxto => some .rx

/-- The output that ends a capture (60_exceptions.md R97). -/
def isDone : Output → Bool
  | .resp _ => false
  | .sent _ => false
  | .done _ _ => true

/-- Whatever the instruction changed, 10_state.md R15 names it as a writer of. -/
structure OnlyWriters (i : Instr) (s t : State) : Prop where
  tb : ∀ c, (settings t c).tb ≠ (settings s c).tb → i = .inctb c ∨ i = .dectb c
  trig : ∀ c, (settings t c).trig ≠ (settings s c).trig → i = .inctrig c ∨ i = .dectrig c
  edge : ∀ c, (settings t c).edge ≠ (settings s c).edge → i = .tgledge c
  phase : t.phase ≠ s.phase → (∃ c, i = .cap c) ∨ i = .txacc ∨ i = .txerr ∨ (∃ b, i = .rxb b) ∨ i = .rxto
  code : t.code ≠ s.code → (∃ c, i = .cap c) ∨ i = .txerr ∨ (∃ b, i = .rxb b) ∨ i = .rxto
  lch : t.lch ≠ s.lch → ∃ c, i = .cap c
  cmd : (∃ k, cmdByte t k ≠ cmdByte s k) ∨ t.cmdLen ≠ s.cmdLen → ∃ c, i = .cap c
  txIdx : t.txIdx ≠ s.txIdx → (∃ c, i = .cap c) ∨ i = .txacc
  rxCnt : t.rxCnt ≠ s.rxCnt → (∃ c, i = .cap c) ∨ ∃ b, i = .rxb b
  fb : ∀ a, fbByte t a ≠ fbByte s a → ∃ b, i = .rxb b

/-! ## Decimal strings -/

/-- The number a string of decimal digit bytes stands for, most significant first. -/
def decimalValue (ds : List Byte) : Nat := ds.foldl (fun n d => 10 * n + (d.toNat - 0x30)) 0

/-- The byte is one of '0'..'9'. -/
def isDigit (d : Byte) : Prop := 0x30 ≤ d.toNat ∧ d.toNat ≤ 0x39

/-! ## Invariants -/

/-- The trigger level's range (10_state.md R28, clauses 2 and 3). -/
def TrigInRange (p : Params) (v : BitVec 13) : Prop :=
  match p.trigPolicy with
  | .saturate => 128 ≤ v.toNat ∧ v.toNat ≤ 3968
  | .literal =>
    v.toNat % 256 = p.trigDefault.toNat % 256 ∧ p.trigDefault.toNat % 256 ≤ v.toNat ∧ v.toNat ≤ 4223 ∧
      (p.trigDefault.toNat % 256 = 128 → 128 ≤ v.toNat ∧ v.toNat ≤ 3968)

/-- The request lengths of 30_encoding.md R57. -/
def CmdLenInRange (p : Params) (n : Nat) : Prop :=
  match p.trigPolicy with
  | .saturate => n = 9 ∨ n = 10
  | .literal => 7 ≤ n ∧ n ≤ 10

/-- The invariants of every state reachable from reset (10_state.md R28), with the canonical form of both buffers, the
range of the parameters, and which bytes of the buffers have been written. -/
structure Inv (s : State) : Prop where
  /-- The configuration has a meaning (00_scope.md R7). -/
  params_legal : paramsLegal s.params = true
  /-- Clause 1. -/
  tb_range : ∀ c, (settings s c).tb.toNat ≤ 6
  /-- Clauses 2 and 3. -/
  trig_range : ∀ c, TrigInRange s.params (settings s c).trig
  /-- Clause 4. -/
  busy_iff_pending : s.phase ≠ .idle ↔ s.code = .pending
  /-- Clause 5. -/
  tx_counts : s.phase = .tx → s.txIdx.toNat < s.cmdLen.toNat ∧ s.rxCnt = 0#13
  /-- Clause 6. -/
  rx_counts : s.phase = .rx → s.txIdx = s.cmdLen ∧ s.rxCnt.toNat < 4003
  /-- Clause 7: the count. -/
  ok_count : s.code = .ok → s.rxCnt.toNat = 4003
  /-- Clause 7: every byte of the frame has been received. -/
  ok_frame : s.code = .ok → ∀ a, a < 4003 → (memRead s.fb a).isSome = true
  /-- Clause 7: the frame passed the marker check. -/
  ok_markers : s.code = .ok → markersPass s = true
  /-- The count a short read leaves (60_exceptions.md R84). -/
  short_count : s.code = .shortRead → s.rxCnt.toNat < 4003
  /-- The count a frame that failed the marker check leaves (60_exceptions.md R84). -/
  framing_count : s.code = .framingError → s.rxCnt.toNat = 4003
  /-- After a write failure no response byte has been stored and the request is not complete (60_exceptions.md R84). -/
  transport_count : s.code = .transportError → s.rxCnt = 0#13 ∧ s.txIdx.toNat < s.cmdLen.toNat
  /-- Clause 8: CMD_LEN is 0 exactly before the first accepted CAP. -/
  len_before_cap : s.code = .none ↔ s.cmdLen = 0#4
  /-- Clause 8: afterwards. -/
  len_after_cap : s.code ≠ .none → CmdLenInRange s.params s.cmdLen.toNat
  /-- The counters stop where 10_state.md R23 and R24 say. -/
  idx_le_len : s.txIdx.toNat ≤ s.cmdLen.toNat
  /-- 10_state.md R24. -/
  cnt_le_frame : s.rxCnt.toNat ≤ 4003
  /-- In RX the bytes received so far are in FB (10_state.md R25). -/
  rx_frame : s.phase = .rx → ∀ a, a < s.rxCnt.toNat → (memRead s.fb a).isSome = true
  /-- The request's bytes are in CMD_BUF (10_state.md R22). -/
  cmd_latched : ∀ k, k < s.cmdLen.toNat → (memRead s.cmdBuf k).isSome = true
  /-- CMD_BUF is in canonical form. -/
  cmd_wf : Memory.wf 10 s.cmdBuf = true
  /-- FB is in canonical form. -/
  fb_wf : Memory.wf 4003 s.fb = true

/-- The two states differ at most in what their unspecified buffer bytes hold. -/
def SameButUnspecified (s t : State) : Prop := { t with cmdEpoch := s.cmdEpoch, fbEpoch := s.fbEpoch } = s

end Sys2Proof.Safety
end

