-- ==== Sys2Proof/Certificates/Slice0/Obligations.lean ====
section
/-! DEFINITION. The statements of this model, for the provers. Each docstring names the rule of spec/ it formalises. -/

open Sys2Proof Sys2Proof.Machine Sys2Proof.Safety

/-! ## Encodings -/

/-- 30_encoding.md R45 to R48 and R52: decoding the word of a well-formed instruction gives it back, at every value of
its operands. -/
def Obligations.DecodeEncodeEveryInstruction : Prop :=
  ∀ i : Instr, wellFormed i = true → decode (encode i) = .ok i

/-- The other direction: the word of a decoded host word's instruction is that word; of an event word's instruction,
the event word with its don't-care bits 0 (log entry 15). -/
def Obligations.EncodeDecodeEveryWord : Prop :=
  (∀ (w : HostWord) (i : Instr), decode (.host w) = .ok i → wellFormed i = true ∧ encode i = .host w) ∧
  (∀ e : EventWord, ∃ i, decode (.transport e) = .ok i ∧
    ∃ e', encode i = .transport e' ∧ bitsAt e' 8 2 = bitsAt e 8 2 ∧
      bitsAt e' 0 8 = if bitsAt e 8 2 = 2 then bitsAt e 0 8 else 0)

/-- 30_encoding.md R49. -/
def Obligations.IllegalHostWordsRejected : Prop :=
  (∀ w : HostWord, (∃ r, decode (.host w) = .error r) ↔
    (bitsAt w 0 4 = 0 ∨ 0xC ≤ bitsAt w 0 4) ∨
    ((1 ≤ bitsAt w 0 4 ∧ bitsAt w 0 4 ≤ 0xA) ∧ bitsAt w 5 11 ≠ 0) ∨
    ((bitsAt w 0 4 = 0xA ∨ bitsAt w 0 4 = 0xB) ∧ bitsAt w 4 1 ≠ 0)) ∧
  (∀ w : HostWord, (∃ i, decode (.host w) = .ok i) ↔
    (1 ≤ bitsAt w 0 4 ∧ bitsAt w 0 4 ≤ 0xB) ∧
    (bitsAt w 0 4 = 0xB ∨ bitsAt w 5 11 = 0) ∧
    (bitsAt w 0 4 < 0xA ∨ bitsAt w 4 1 = 0)) ∧
  (∀ (w : HostWord) (r : Illegal), decode (.host w) = .error r → StepRejects w .illegal) ∧
  StepRejects 0x0000#16 .illegal

/-- 30_encoding.md R47: for OP 0x1 to 0x9 with IDX 0, the channel is CH + 1. -/
def Obligations.ChannelFieldNamesChannel : Prop :=
  ∀ w : HostWord, 1 ≤ bitsAt w 0 4 → bitsAt w 0 4 ≤ 9 → bitsAt w 5 11 = 0 →
    ∃ c, channelNumber c = bitsAt w 4 1 + 1 ∧
      decode (.host w) = .ok
        (match bitsAt w 0 4 with
          | 1 => .inctb c
          | 2 => .dectb c
          | 3 => .gettb c
          | 4 => .tgledge c
          | 5 => .inctrig c
          | 6 => .dectrig c
          | 7 => .gettrig c
          | 8 => .getedge c
          | _ => .cap c)

/-- 30_encoding.md R48. -/
def Obligations.SampleIndexFieldIsTheIndex : Prop :=
  (∀ i : Nat, i < 2048 → decode (.host (BitVec.ofNat 16 (32 * i + 0xB))) = .ok (.rdsmp i)) ∧
  (∀ i : Nat, 2000 ≤ i → i < 2048 → StepRejects (BitVec.ofNat 16 (32 * i + 0xB)) .range)

/-- 30_encoding.md R52: the four kinds, the DATA bits of three of them don't-care. -/
def Obligations.TransportWordKinds : Prop :=
  ∀ d : Byte,
    decode (.transport (BitVec.ofNat 10 (0x000 + d.toNat))) = .ok .txacc ∧
    decode (.transport (BitVec.ofNat 10 (0x100 + d.toNat))) = .ok .txerr ∧
    decode (.transport (BitVec.ofNat 10 (0x200 + d.toNat))) = .ok (.rxb d) ∧
    decode (.transport (BitVec.ofNat 10 (0x300 + d.toNat))) = .ok .rxto

/-- The words of 30_encoding.md R62 and 95_test_vectors.md section 2.2. -/
def Obligations.ListedWordsDecode : Prop :=
  decode (.host 0x0001#16) = .ok (.inctb .ch1) ∧
  decode (.host 0x0019#16) = .ok (.cap .ch2) ∧
  decode (.host 0x000A#16) = .ok .rdst ∧
  decode (.host 0xF9EB#16) = .ok (.rdsmp 1999) ∧
  decode (.host 0x258B#16) = .ok (.rdsmp 300) ∧
  decode (.transport 0x253#10) = .ok (.rxb 0x53#8) ∧
  decode (.transport 0x300#10) = .ok .rxto

/-! ## The step -/

/-- 00_scope.md R11: the step takes the head of the event list and runs the instruction its word decodes to. Around
`exec` the step only takes the event. -/
def Obligations.StepRunsDecodedInstruction : Prop :=
  ∀ (s : State) (w : InputWord) (es : List Event) (i : Instr), paramsLegal s.params = true →
    s.inbox = .word w :: es → decode w = .ok i → step s = exec i (withInbox s es)

/-- 00_scope.md R3: the block never acts on its own. That the step of a state without a pending event answers that
state is the model's choice (log entry 5). -/
def Obligations.WaitsWithoutEvent : Prop :=
  ∀ s : State, paramsLegal s.params = true → s.inbox = [] → ∃ t, step s = .next t ∧ t.out = [] ∧ AllKept s t

/-- The range of 00_scope.md R7: outside it, and only there, the step refuses. -/
def Obligations.IllegalConfigurationRefused : Prop :=
  ∀ s : State, (∃ r, step s = .refused r) ↔
    ¬ ((s.params.trigPolicy = .saturate ∧ 128 ≤ s.params.trigDefault.toNat ∧ s.params.trigDefault.toNat ≤ 3968) ∨
       (s.params.trigPolicy = .literal ∧ s.params.trigDefault.toNat ≤ 4095 ∧
         s.params.trigDefault.toNat % 256 ≤ 128))

/-- 00_scope.md R11 and 10_state.md R29: every step takes at most the oldest event and leaves the parameters. -/
def Obligations.EventsTakenInOrderParametersFixed : Prop :=
  ∀ s t : State, step s = .next t → t.inbox = s.inbox.tail ∧ t.params = s.params

/-! ## Reset -/

/-- 70_reset_and_hazards.md R104. That the buffers list nothing (every byte a free value) is log entries 7 and 8. -/
def Obligations.ResetEventRestoresEveryElement : Prop :=
  ∀ (s : State) (es : List Event), paramsLegal s.params = true → s.inbox = .reset :: es →
    ∃ t, step s = .next t ∧ t.out = [] ∧
      (∀ c, (settings t c).tb.toNat = 3 ∧ (settings t c).trig = s.params.trigDefault ∧
        (settings t c).edge = .rising) ∧
      t.phase = .idle ∧ t.code = .none ∧ t.lch = .ch1 ∧ t.cmdLen.toNat = 0 ∧ t.txIdx.toNat = 0 ∧ t.rxCnt.toNat = 0 ∧
      (∀ k, memRead t.cmdBuf k = none) ∧ (∀ a, memRead t.fb a = none) ∧ EnvKept (withInbox s es) t

/-- 70_reset_and_hazards.md R105. -/
def Obligations.ResetEndsCaptureWithoutDone : Prop :=
  ∀ (s : State) (es : List Event), paramsLegal s.params = true → s.inbox = .reset :: es → s.phase ≠ .idle →
    ∃ t, step s = .next t ∧ (∀ o ∈ t.out, isDone o = false) ∧ t.code = .none ∧ t.phase = .idle ∧
      (∀ c, (settings t c).tb.toNat = 3 ∧ (settings t c).trig = s.params.trigDefault ∧
        (settings t c).edge = .rising) ∧
      (∀ e : EventWord, ∃ i u, decode (.transport e) = .ok i ∧ exec i t = .next u ∧ u.out = [] ∧ AllKept t u)

/-- 70_reset_and_hazards.md R106 with the reset values of 10_state.md R16 to R24 and R30. TRIG_DEFAULT 2048 is the
model's choice (log entry 2), and so are the empty event and output lists (log entries 4 and 6). -/
def Obligations.PowerOnState : Prop :=
  (∀ c, (settings State.reset c).tb = 3#3 ∧ (settings State.reset c).trig = 2048#13 ∧
    (settings State.reset c).edge = .rising) ∧
  State.reset.phase = .idle ∧ State.reset.code = .none ∧ State.reset.lch = .ch1 ∧ State.reset.cmdLen = 0#4 ∧
  State.reset.txIdx = 0#4 ∧ State.reset.rxCnt = 0#13 ∧ State.reset.inbox = [] ∧ State.reset.out = [] ∧
  status State.reset = 0x00000000#32

/-! ## Settings operations -/

/-- 40_settings.md R63. -/
def Obligations.IncreaseTimebase : Prop :=
  decode (.host 0x0001#16) = .ok (.inctb .ch1) ∧ decode (.host 0x0011#16) = .ok (.inctb .ch2) ∧
  NonzeroIdxIllegal 1 ∧
  ∀ (c : Channel) (s : State), ∃ t, exec (.inctb c) s = .next t ∧ t.out = [.resp (.ack 0#32)] ∧
    ((settings s c).tb.toNat < 6 → (settings t c).tb.toNat = (settings s c).tb.toNat + 1) ∧
    (6 ≤ (settings s c).tb.toNat → (settings t c).tb = (settings s c).tb) ∧
    (settings t c).trig = (settings s c).trig ∧ (settings t c).edge = (settings s c).edge ∧ RestKept c s t

/-- 40_settings.md R64. -/
def Obligations.DecreaseTimebase : Prop :=
  decode (.host 0x0002#16) = .ok (.dectb .ch1) ∧ decode (.host 0x0012#16) = .ok (.dectb .ch2) ∧
  NonzeroIdxIllegal 2 ∧
  ∀ (c : Channel) (s : State), ∃ t, exec (.dectb c) s = .next t ∧ t.out = [.resp (.ack 0#32)] ∧
    (0 < (settings s c).tb.toNat → (settings t c).tb.toNat + 1 = (settings s c).tb.toNat) ∧
    ((settings s c).tb.toNat = 0 → (settings t c).tb.toNat = 0) ∧
    (settings t c).trig = (settings s c).trig ∧ (settings t c).edge = (settings s c).edge ∧ RestKept c s t

/-- 40_settings.md R65. -/
def Obligations.ReadTimebase : Prop :=
  decode (.host 0x0003#16) = .ok (.gettb .ch1) ∧ decode (.host 0x0013#16) = .ok (.gettb .ch2) ∧
  NonzeroIdxIllegal 3 ∧
  ∀ (c : Channel) (s : State), ∃ t v, exec (.gettb c) s = .next t ∧ t.out = [.resp (.ack v)] ∧
    v.toNat = (settings s c).tb.toNat ∧ (Inv s → v.toNat ≤ 6) ∧ AllKept s t

/-- 40_settings.md R66, the involution among its corner cases. -/
def Obligations.ToggleTriggerEdge : Prop :=
  decode (.host 0x0004#16) = .ok (.tgledge .ch1) ∧ decode (.host 0x0014#16) = .ok (.tgledge .ch2) ∧
  NonzeroIdxIllegal 4 ∧
  ∀ (c : Channel) (s : State), ∃ t, exec (.tgledge c) s = .next t ∧ t.out = [.resp (.ack 0#32)] ∧
    (edgeBit (settings t c).edge).toNat = 1 - (edgeBit (settings s c).edge).toNat ∧
    (settings t c).tb = (settings s c).tb ∧ (settings t c).trig = (settings s c).trig ∧ RestKept c s t ∧
    ∃ u, exec (.tgledge c) t = .next u ∧ (settings u c).edge = (settings s c).edge

/-- 40_settings.md R67. -/
def Obligations.IncreaseTriggerLevel : Prop :=
  decode (.host 0x0005#16) = .ok (.inctrig .ch1) ∧ decode (.host 0x0015#16) = .ok (.inctrig .ch2) ∧
  NonzeroIdxIllegal 5 ∧
  ∀ (c : Channel) (s : State), ∃ t, exec (.inctrig c) s = .next t ∧ t.out = [.resp (.ack 0#32)] ∧
    ((settings s c).trig.toNat < 3968 →
      (s.params.trigPolicy = .saturate →
        (settings t c).trig.toNat = min ((settings s c).trig.toNat + 256) 3968) ∧
      (s.params.trigPolicy = .literal → (settings t c).trig.toNat = (settings s c).trig.toNat + 256) ∧
      ((settings s c).trig.toNat % 256 = 128 → (settings t c).trig.toNat = (settings s c).trig.toNat + 256) ∧
      (settings t c).trig.toNat ≤ 4223) ∧
    (3968 ≤ (settings s c).trig.toNat → (settings t c).trig = (settings s c).trig) ∧
    (settings t c).tb = (settings s c).tb ∧ (settings t c).edge = (settings s c).edge ∧ RestKept c s t

/-- 40_settings.md R68. In the states that R68 excludes under LITERAL (a level of 129 to 255) the new level is a free
value (log entry 11); everything else is stated there too. -/
def Obligations.DecreaseTriggerLevel : Prop :=
  decode (.host 0x0006#16) = .ok (.dectrig .ch1) ∧ decode (.host 0x0016#16) = .ok (.dectrig .ch2) ∧
  NonzeroIdxIllegal 6 ∧
  ∀ (c : Channel) (s : State), ∃ t, exec (.dectrig c) s = .next t ∧ t.out = [.resp (.ack 0#32)] ∧
    (128 < (settings s c).trig.toNat →
      (s.params.trigPolicy = .saturate →
        ((settings t c).trig.toNat : Int) = max (((settings s c).trig.toNat : Int) - 256) 128) ∧
      (s.params.trigPolicy = .literal → 256 ≤ (settings s c).trig.toNat →
        (settings t c).trig.toNat + 256 = (settings s c).trig.toNat) ∧
      ((settings s c).trig.toNat % 256 = 128 → (settings t c).trig.toNat + 256 = (settings s c).trig.toNat)) ∧
    ((settings s c).trig.toNat ≤ 128 → (settings t c).trig = (settings s c).trig) ∧
    (settings t c).tb = (settings s c).tb ∧ (settings t c).edge = (settings s c).edge ∧ RestKept c s t

/-- What 40_settings.md R68 infers from 10_state.md R28: under LITERAL no reachable decrement goes below zero. -/
def Obligations.LiteralDecrementNeverNegative : Prop :=
  ∀ (c : Channel) (s : State), Inv s → s.params.trigPolicy = .literal → 128 < (settings s c).trig.toNat →
    256 ≤ (settings s c).trig.toNat ∧
    ∃ t, exec (.dectrig c) s = .next t ∧ (settings t c).trig.toNat + 256 = (settings s c).trig.toNat

/-- 40_settings.md R69. -/
def Obligations.ReadTriggerLevel : Prop :=
  decode (.host 0x0007#16) = .ok (.gettrig .ch1) ∧ decode (.host 0x0017#16) = .ok (.gettrig .ch2) ∧
  NonzeroIdxIllegal 7 ∧
  ∀ (c : Channel) (s : State), ∃ t v, exec (.gettrig c) s = .next t ∧ t.out = [.resp (.ack v)] ∧
    v.toNat = (settings s c).trig.toNat ∧ AllKept s t

/-- 40_settings.md R70. -/
def Obligations.ReadTriggerEdge : Prop :=
  decode (.host 0x0008#16) = .ok (.getedge .ch1) ∧ decode (.host 0x0018#16) = .ok (.getedge .ch2) ∧
  NonzeroIdxIllegal 8 ∧
  ∀ (c : Channel) (s : State), ∃ t v, exec (.getedge c) s = .next t ∧ t.out = [.resp (.ack v)] ∧
    v.toNat = (match (settings s c).edge with | .rising => 1 | .falling => 0) ∧ AllKept s t

/-- 40_settings.md, "Laws of the settings operations": the trigger round trips on the grid, at any level away from the
clamp, and under LITERAL; and the step that clamps. -/
def Obligations.TriggerRoundTrips : Prop :=
  ∀ (c : Channel) (s : State),
    ((settings s c).trig.toNat % 256 = 128 → (settings s c).trig.toNat < 3968 →
      ∃ t o, runInstrs [.inctrig c, .dectrig c] s = some (t, o) ∧ (settings t c).trig = (settings s c).trig) ∧
    ((settings s c).trig.toNat % 256 = 128 → 128 < (settings s c).trig.toNat → (settings s c).trig.toNat ≤ 3968 →
      ∃ t o, runInstrs [.dectrig c, .inctrig c] s = some (t, o) ∧ (settings t c).trig = (settings s c).trig) ∧
    (s.params.trigPolicy = .literal → Inv s → (settings s c).trig.toNat < 3968 →
      ∃ t o, runInstrs [.inctrig c, .dectrig c] s = some (t, o) ∧ (settings t c).trig = (settings s c).trig) ∧
    (s.params.trigPolicy = .saturate → 3712 < (settings s c).trig.toNat → (settings s c).trig.toNat ≤ 3968 →
      ∃ t o, runInstrs [.inctrig c, .dectrig c] s = some (t, o) ∧ (settings t c).trig.toNat = 3712)

/-- 20_memory.md R42: the request is latched by the CAP that is accepted, and no settings operation reaches it. -/
def Obligations.SettingsSnapshotAtCapture : Prop :=
  (∀ (c : Channel) (s : State), s.phase = .idle → ∃ t, exec (.cap c) s = .next t ∧
    ∀ k b, (build s c)[k]? = some b → cmdByte t k = b) ∧
  (∀ (i : Instr) (s : State), isSettingsOp i = true →
    ∃ t, exec i s = .next t ∧ CmdKept s t ∧ t.cmdLen = s.cmdLen)

/-! ## The request string -/

/-- 30_encoding.md R54 and R55: the layout of the request and its field encodings, with the byte values these rules
give (log entry 13). -/
def Obligations.RequestLayout : Prop :=
  ∀ (c : Channel) (s : State),
    (build s c)[0]? = some 0x53#8 ∧ (build s c)[1]? = some 0x54#8 ∧
    (build s c)[2]? = some (BitVec.ofNat 8 (0x30 + (settings s c).tb.toNat)) ∧
    (build s c)[3]? = some (match c with | .ch1 => 0x31#8 | .ch2 => 0x32#8) ∧
    (∀ k, k < (dec (settings s c).trig).length → (build s c)[4 + k]? = (dec (settings s c).trig)[k]?) ∧
    (build s c)[4 + (dec (settings s c).trig).length]? =
      some (match (settings s c).edge with | .rising => 0x31#8 | .falling => 0x30#8) ∧
    (build s c)[5 + (dec (settings s c).trig).length]? = some 0x45#8 ∧
    (build s c).length = 6 + (dec (settings s c).trig).length

/-- 30_encoding.md R56: decimal digits only, of the right value, and no leading zero. -/
def Obligations.DecimalIsShortest : Prop :=
  ∀ v : BitVec 13, (∀ d ∈ dec v, isDigit d) ∧ decimalValue (dec v) = v.toNat ∧
    (v.toNat = 0 → dec v = [0x30#8]) ∧ (v.toNat ≠ 0 → ∃ d ds, dec v = d :: ds ∧ d ≠ 0x30#8)

/-- 30_encoding.md R57, an inference the spec marks as its own: the length by the size of the level; every 'E' is the last byte, and the edge flag is the byte
before it. -/
def Obligations.RequestLength : Prop :=
  ∀ (c : Channel) (s : State),
    (build s c).length = 6 + (dec (settings s c).trig).length ∧
    ((settings s c).trig.toNat ≤ 9 → (build s c).length = 7) ∧
    (10 ≤ (settings s c).trig.toNat → (settings s c).trig.toNat ≤ 99 → (build s c).length = 8) ∧
    (100 ≤ (settings s c).trig.toNat → (settings s c).trig.toNat ≤ 999 → (build s c).length = 9) ∧
    (1000 ≤ (settings s c).trig.toNat → (build s c).length = 10) ∧
    (Inv s → s.params.trigPolicy = .saturate → (build s c).length = 9 ∨ (build s c).length = 10) ∧
    (∀ k, (build s c)[k]? = some 0x45#8 → k + 1 = (build s c).length ∧
      ∃ j, j + 1 = k ∧ (build s c)[j]? = some (match (settings s c).edge with | .rising => 0x31#8 | .falling => 0x30#8))

/-! ## Capture operations -/

/-- 41_capture.md R72. -/
def Obligations.CaptureRequestAcceptedOrBusy : Prop :=
  decode (.host 0x0009#16) = .ok (.cap .ch1) ∧ decode (.host 0x0019#16) = .ok (.cap .ch2) ∧
  NonzeroIdxIllegal 9 ∧
  (∀ (c : Channel) (s : State), s.phase ≠ .idle →
    ∃ t, exec (.cap c) s = .next t ∧ t.out = [.resp (.rej .busy)] ∧ AllKept s t) ∧
  (∀ (c : Channel) (s : State), s.phase = .idle →
    ∃ t, exec (.cap c) s = .next t ∧ t.out = [.resp (.ack 0#32)] ∧
      (∀ k b, (build s c)[k]? = some b → cmdByte t k = b) ∧ t.cmdLen.toNat = (build s c).length ∧
      t.txIdx.toNat = 0 ∧ t.rxCnt.toNat = 0 ∧ t.lch = c ∧ t.code = .pending ∧ t.phase = .tx ∧
      SettingsKept s t ∧ FrameKept s t ∧ EnvKept s t ∧
      (∀ i, i < 2000 → ∃ u, exec (.rdsmp i) t = .next u ∧ u.out = [.resp (.rej .noData)]))

/-- 30_encoding.md R60, with the code values of R61 and the phase values of 10_state.md R19. -/
def Obligations.StatusWordLayout : Prop :=
  ∀ s : State,
    bitsAt (status s) 0 3 = (match s.code with
      | .none => 0
      | .pending => 1
      | .ok => 2
      | .shortRead => 3
      | .framingError => 4
      | .transportError => 5) ∧
    bitsAt (status s) 3 1 = (match s.lch with | .ch1 => 0 | .ch2 => 1) ∧
    bitsAt (status s) 4 13 = s.rxCnt.toNat ∧
    bitsAt (status s) 17 2 = (match s.phase with | .idle => 0 | .tx => 1 | .rx => 2) ∧
    bitsAt (status s) 19 13 = 0

/-- 41_capture.md R73. -/
def Obligations.ReadStatus : Prop :=
  decode (.host 0x000A#16) = .ok .rdst ∧
  (∀ w : HostWord, bitsAt w 0 4 = 0xA → bitsAt w 4 1 ≠ 0 ∨ bitsAt w 5 11 ≠ 0 → StepRejects w .illegal) ∧
  ∀ s : State, ∃ t, exec .rdst s = .next t ∧ t.out = [.resp (.ack (status s))] ∧ AllKept s t ∧
    (Inv s →
      (s.code = .shortRead → bitsAt (status s) 4 13 ≤ 4002) ∧
      (s.code = .ok ∨ s.code = .framingError → bitsAt (status s) 4 13 = 4003) ∧
      (s.code = .transportError → bitsAt (status s) 4 13 = 0))

/-- 41_capture.md R74. -/
def Obligations.ReadSample : Prop :=
  (∀ i : Nat, i < 2048 → decode (.host (BitVec.ofNat 16 (32 * i + 0xB))) = .ok (.rdsmp i)) ∧
  (∀ w : HostWord, bitsAt w 0 4 = 0xB → bitsAt w 4 1 ≠ 0 → StepRejects w .illegal) ∧
  (∀ (i : Nat) (s : State), 2000 ≤ i →
    ∃ t, exec (.rdsmp i) s = .next t ∧ t.out = [.resp (.rej .range)] ∧ AllKept s t) ∧
  (∀ (i : Nat) (s : State), i < 2000 → s.code ≠ .ok →
    ∃ t, exec (.rdsmp i) s = .next t ∧ t.out = [.resp (.rej .noData)] ∧ AllKept s t) ∧
  (∀ (i : Nat) (s : State), i < 2000 → s.code = .ok →
    ∃ t v, exec (.rdsmp i) s = .next t ∧ t.out = [.resp (.ack v)] ∧ v.toNat = (sample s i).toNat ∧ AllKept s t) ∧
  (∀ (j : Instr) (s : State), s.code = .ok → s.phase = .idle → isCap j = false →
    ∃ t, exec j s = .next t ∧ t.code = .ok ∧ t.phase = .idle ∧ ∀ i, sample t i = sample s i)

/-- 42_framer.md R82: the formula, the range, and that a sample depends on the data bits of its own pair alone. -/
def Obligations.SampleFromItsPair : Prop :=
  (∀ (s : State) (i : Nat), i < 2000 →
    (sample s i).toNat = (fbByte s (2 * i + 2)).toNat % 128 + (fbByte s (2 * i + 3)).toNat % 32 * 128 ∧
    bitsAt (sample s i) 0 7 = bitsAt (fbByte s (2 * i + 2)) 0 7 ∧
    bitsAt (sample s i) 7 5 = bitsAt (fbByte s (2 * i + 3)) 0 5 ∧
    (sample s i).toNat ≤ 4095) ∧
  (∀ (s t : State) (i : Nat), i < 2000 →
    bitsAt (fbByte t (2 * i + 2)) 0 7 = bitsAt (fbByte s (2 * i + 2)) 0 7 →
    bitsAt (fbByte t (2 * i + 3)) 0 5 = bitsAt (fbByte s (2 * i + 3)) 0 5 → sample t i = sample s i)

/-! ## Transport events -/

/-- 42_framer.md R75, for a TX_IDX that CMD_BUF has (10_state.md R28); for any other the statement
OnlyMissingBufferBytesFault says that the instruction faults. -/
def Obligations.TransportTakesRequestByte : Prop :=
  (∀ s : State, s.phase = .tx → s.txIdx.toNat < 10 →
    ∃ t, exec .txacc s = .next t ∧ t.out = [.sent (cmdByte s s.txIdx.toNat)] ∧
      t.txIdx.toNat = s.txIdx.toNat + 1 ∧
      (s.txIdx.toNat + 1 = s.cmdLen.toNat → t.phase = .rx) ∧ (s.txIdx.toNat + 1 ≠ s.cmdLen.toNat → t.phase = .tx) ∧
      t.code = s.code ∧ t.lch = s.lch ∧ t.cmdLen = s.cmdLen ∧ t.rxCnt = s.rxCnt ∧
      SettingsKept s t ∧ FrameKept s t ∧ CmdKept s t ∧ EnvKept s t) ∧
  (∀ s : State, s.phase ≠ .tx → ∃ t, exec .txacc s = .next t ∧ t.out = [] ∧ AllKept s t)

/-- 42_framer.md R76: the failure ends the capture at whatever byte it comes; the bytes already taken stay sent. -/
def Obligations.WriteFailureEndsCapture : Prop :=
  (∀ s : State, s.phase = .tx →
    ∃ t, exec .txerr s = .next t ∧ t.out = [.done s.lch .transportError] ∧ t.code = .transportError ∧
      t.phase = .idle ∧ t.lch = s.lch ∧ t.cmdLen = s.cmdLen ∧ t.txIdx = s.txIdx ∧ t.rxCnt = s.rxCnt ∧
      SettingsKept s t ∧ FrameKept s t ∧ CmdKept s t ∧ EnvKept s t) ∧
  (∀ s : State, s.phase ≠ .tx → ∃ t, exec .txerr s = .next t ∧ t.out = [] ∧ AllKept s t) ∧
  (∀ (c : Channel) (s : State) (k : Nat), s.phase = .idle → k < (build s c).length →
    ∃ t, runInstrs (.cap c :: (List.replicate k .txacc ++ [.txerr])) s =
        some (t, .resp (.ack 0#32) :: (((build s c).take k).map .sent ++ [.done c .transportError])) ∧
      t.phase = .idle ∧ t.code = .transportError ∧ t.txIdx.toNat = k ∧ t.rxCnt.toNat = 0)

/-- 42_framer.md R77: where the byte goes, the count, and the events outside RX. The index stored to is RX_CNT. -/
def Obligations.ResponseByteStored : Prop :=
  (∀ (b : Byte) (s : State), s.phase = .rx → s.rxCnt.toNat < 4003 →
    ∃ t, exec (.rxb b) s = .next t ∧ fbByte t s.rxCnt.toNat = b ∧
      (∀ a, a ≠ s.rxCnt.toNat → fbByte t a = fbByte s a) ∧ t.rxCnt.toNat = s.rxCnt.toNat + 1 ∧
      (s.rxCnt.toNat + 1 < 4003 → t.out = [] ∧ t.phase = .rx ∧ t.code = s.code) ∧
      (s.rxCnt.toNat + 1 = 4003 →
        t.phase = .idle ∧ t.out = [.done s.lch t.code] ∧ (t.code = .ok ∨ t.code = .framingError)) ∧
      t.lch = s.lch ∧ t.cmdLen = s.cmdLen ∧ t.txIdx = s.txIdx ∧ SettingsKept s t ∧ CmdKept s t ∧ EnvKept s t) ∧
  (∀ (b : Byte) (s : State), s.phase ≠ .rx → ∃ t, exec (.rxb b) s = .next t ∧ t.out = [] ∧ AllKept s t)

/-- 42_framer.md R78. -/
def Obligations.ReadTimeoutIsShortRead : Prop :=
  (∀ s : State, s.phase = .rx →
    ∃ t, exec .rxto s = .next t ∧ t.out = [.done s.lch .shortRead] ∧ t.code = .shortRead ∧
      t.phase = .idle ∧ t.lch = s.lch ∧ t.cmdLen = s.cmdLen ∧ t.txIdx = s.txIdx ∧ t.rxCnt = s.rxCnt ∧
      SettingsKept s t ∧ FrameKept s t ∧ CmdKept s t ∧ EnvKept s t ∧
      (∀ i, i < 2000 → ∃ u, exec (.rdsmp i) t = .next u ∧ u.out = [.resp (.rej .noData)])) ∧
  (∀ s : State, s.phase ≠ .rx → ∃ t, exec .rxto s = .next t ∧ t.out = [] ∧ AllKept s t)

/-- 42_framer.md R79, R80, R81: the verdict of the 4003rd byte by the three markers, with the byte
values R80 and R81 give (log entry 13), and none before it. -/
def Obligations.MarkersDecideVerdict : Prop :=
  (∀ (b : Byte) (s : State), s.phase = .rx → s.rxCnt.toNat < 4002 →
    ∃ t, exec (.rxb b) s = .next t ∧ t.out = [] ∧ t.code = s.code ∧ t.phase = .rx) ∧
  (∀ (b : Byte) (s : State), s.phase = .rx → s.rxCnt.toNat = 4002 →
    ∃ t, exec (.rxb b) s = .next t ∧ t.phase = .idle ∧ t.out = [.done s.lch t.code] ∧
      (s.params.legacyStartCheck = false →
        (fbByte s 0 = 0x53#8 ∧ fbByte s 1 = 0x4D#8 ∧ b = 0x45#8 → t.code = .ok) ∧
        (¬ (fbByte s 0 = 0x53#8 ∧ fbByte s 1 = 0x4D#8 ∧ b = 0x45#8) → t.code = .framingError)) ∧
      (s.params.legacyStartCheck = true →
        (fbByte s 1 = 0x4D#8 ∧ b = 0x45#8 → t.code = .ok) ∧
        (¬ (fbByte s 1 = 0x4D#8 ∧ b = 0x45#8) → t.code = .framingError)))

/-- The faults of the instructions (log entry 10): a buffer index that 20_memory.md R31 and R32 do not give makes an
instruction fault, and nothing else does; no instruction is refused. The step's one refusal, of an illegal configuration
(log entry 17), is IllegalConfigurationRefused. -/
def Obligations.OnlyMissingBufferBytesFault : Prop :=
  ∀ (i : Instr) (s : State), (∀ r, exec i s ≠ .refused r) ∧
    ((∃ f, exec i s = .fault f) ↔
      (i = .txacc ∧ s.phase = .tx ∧ 10 ≤ s.txIdx.toNat) ∨
      ((∃ b, i = .rxb b) ∧ s.phase = .rx ∧ 4003 ≤ s.rxCnt.toNat))

/-- 10_state.md R27. Where R27 gives TX_DATA no defined value it is `none`, the model's choice (log entry 9). -/
def Obligations.LevelOutputs : Prop :=
  (∀ s : State, (busy s = true ↔ s.phase ≠ .idle) ∧ (txValid s = true ↔ s.phase = .tx) ∧
    (txValid s = true → txData s = some (cmdByte s s.txIdx.toNat)) ∧ (txValid s = false → txData s = none)) ∧
  (∀ (s : State) (b : Byte), txData s = some b → s.txIdx.toNat < 10 →
    ∃ t, exec .txacc s = .next t ∧ t.out = [.sent b])

/-! ## Responses, rejects, ignored events, completion -/

/-- 30_encoding.md R50: one response to each host operation, and its 33-bit word. -/
def Obligations.OneResponsePerHostOperation : Prop :=
  (∀ (i : Instr) (s : State), isHostOp i = true → ∃ t r, exec i s = .next t ∧ t.out = [.resp r]) ∧
  (∀ (w : HostWord) (s : State) (es : List Event), paramsLegal s.params = true → s.inbox = .word (.host w) :: es →
    ∃ t r, step s = .next t ∧ t.out = [.resp r]) ∧
  (∀ (i : Instr) (s : State), isSettingsOp i = true → ∃ t v, exec i s = .next t ∧ t.out = [.resp (.ack v)]) ∧
  (∀ (i : Instr) (s t : State) (v : Value), isMutator i = true ∨ isCap i = true → exec i s = .next t →
    t.out = [.resp (.ack v)] → v = 0#32) ∧
  (∀ v : Value, bitsAt (respWord (.ack v)) 32 1 = 0 ∧ bitsAt (respWord (.ack v)) 0 32 = v.toNat) ∧
  (∀ r : Reason, bitsAt (respWord (.rej r)) 32 1 = 1 ∧ bitsAt (respWord (.rej r)) 0 32 = (reasonCode r).toNat)

/-- 30_encoding.md R51: what a reject leaves, the codes, and who raises which. -/
def Obligations.RejectsChangeNothing : Prop :=
  (∀ (i : Instr) (s t : State) (r : Reason), exec i s = .next t → .resp (.rej r) ∈ t.out →
    AllKept s t ∧ t.out = [.resp (.rej r)] ∧
    (match r with
      | .illegal => False
      | .busy => (∃ c, i = .cap c) ∧ s.phase ≠ .idle
      | .noData => (∃ k, i = .rdsmp k ∧ k < 2000) ∧ s.code ≠ .ok
      | .range => ∃ k, i = .rdsmp k ∧ 2000 ≤ k)) ∧
  (∀ (w : HostWord) (r : Illegal), decode (.host w) = .error r → StepRejects w .illegal) ∧
  (reasonCode .illegal).toNat = 1 ∧ (reasonCode .busy).toNat = 2 ∧ (reasonCode .noData).toNat = 3 ∧
  (reasonCode .range).toNat = 4

/-- 60_exceptions.md R91. -/
def Obligations.RejectPrecedence : Prop :=
  (∀ (w : HostWord) (r : Illegal), decode (.host w) = .error r → StepRejects w .illegal) ∧
  (∀ (c : Channel) (s : State), s.phase ≠ .idle →
    ∃ t, exec (.cap c) s = .next t ∧ t.out = [.resp (.rej .busy)]) ∧
  (∀ (i : Nat) (s : State), 2000 ≤ i → ∃ t, exec (.rdsmp i) s = .next t ∧ t.out = [.resp (.rej .range)]) ∧
  (∀ (i : Nat) (s : State), i < 2000 → s.code ≠ .ok →
    ∃ t, exec (.rdsmp i) s = .next t ∧ t.out = [.resp (.rej .noData)])

/-- 30_encoding.md R53: events out of phase, and that a transport event answers no operation. -/
def Obligations.EventsOutOfPhaseIgnored : Prop :=
  (∀ (i : Instr) (p : Phase) (s : State), meaningPhase i = some p → s.phase ≠ p →
    ∃ t, exec i s = .next t ∧ t.out = [] ∧ AllKept s t) ∧
  (∀ (i : Instr) (p : Phase) (s t : State) (r : Resp), meaningPhase i = some p → exec i s = .next t →
    .resp r ∉ t.out)

/-- 20_memory.md R39: reads change nothing and repeat; and whatever changes, a writer named by 10_state.md R15 changed
it. -/
def Obligations.ReadsHaveNoSideEffect : Prop :=
  (∀ (i : Instr) (s : State), isHostRead i = true →
    ∃ t, exec i s = .next t ∧ AllKept s t ∧ ∃ u, exec i t = .next u ∧ u.out = t.out) ∧
  (∀ (i : Instr) (s t : State), exec i s = .next t → OnlyWriters i s t)

/-- 60_exceptions.md R97: an instruction emits Done exactly when BUSY falls in its step, with the channel of the capture
and its final code, and no other output goes with it. A RESET event, which is no instruction, ends a capture without Done
(70_reset_and_hazards.md R105; ResetEndsCaptureWithoutDone). -/
def Obligations.InstructionEmitsDoneExactlyWhenBusyFalls : Prop :=
  (∀ (i : Instr) (s t : State), exec i s = .next t →
    ((∃ o ∈ t.out, isDone o = true) ↔ busy s = true ∧ busy t = false)) ∧
  (∀ s t : State, step s = .next t → (∃ o ∈ t.out, isDone o = true) →
    busy s = true ∧ busy t = false ∧ t.out = [.done s.lch t.code] ∧
      (t.code = .ok ∨ t.code = .shortRead ∨ t.code = .framingError ∨ t.code = .transportError)) ∧
  (∀ s : State, Inv s → (busy s = true ↔ s.code = .pending))

/-- 42_framer.md R83 and 60_exceptions.md R93: the step that ends a capture leaves the settings, the channel, the
request and its counts; the only byte of FB it writes is the response byte it received. -/
def Obligations.CaptureEndKeepsTheRest : Prop :=
  ∀ (i : Instr) (s t : State), exec i s = .next t → (∃ o ∈ t.out, isDone o = true) →
    SettingsKept s t ∧ CmdKept s t ∧ EnvKept s t ∧ t.lch = s.lch ∧ t.cmdLen = s.cmdLen ∧ t.txIdx = s.txIdx ∧
    (∀ a, (∀ b, i ≠ .rxb b) ∨ a ≠ s.rxCnt.toNat → fbByte t a = fbByte s a) ∧
    ((∀ b, i ≠ .rxb b) → t.rxCnt = s.rxCnt) ∧
    ∀ c, ∃ u, exec (.cap c) t = .next u ∧ u.out = [.resp (.ack 0#32)]

/-! ## Invariants and whole-machine rules -/

/-- The invariants of 10_state.md R28 hold in the state after reset. -/
def Obligations.InvariantsAtReset : Prop := Inv State.reset

/-- The invariants of 10_state.md R28 hold after RESET in every legal configuration, from any state. -/
def Obligations.InvariantsAfterResetEvent : Prop :=
  ∀ (s : State) (es : List Event), paramsLegal s.params = true → s.inbox = .reset :: es →
    ∃ t, step s = .next t ∧ Inv t

/-- The invariants of 10_state.md R28 are kept by every step. -/
def Obligations.EveryStepKeepsInvariants : Prop :=
  ∀ s t : State, Inv s → step s = .next t → Inv t

/-- The buffers keep their canonical form (log entries 7 and 8) in every step, from any state. -/
def Obligations.EveryStepKeepsBuffersCanonical : Prop :=
  ∀ s t : State, Memory.wf 10 s.cmdBuf = true → Memory.wf 4003 s.fb = true → step s = .next t →
    Memory.wf 10 t.cmdBuf = true ∧ Memory.wf 4003 t.fb = true

/-- 60_exceptions.md R95: under the invariants every event is processed; a failure leaves the block ready for CAP; no
failure and no reject changes a settings register. That every event is processed is said of states that meet Inv, so of
legal configurations. -/
def Obligations.NoFatalState : Prop :=
  (∀ s : State, Inv s → ∃ t, step s = .next t) ∧
  (∀ (i : Instr) (s t : State) (ch : Channel) (code : Code), exec i s = .next t → .done ch code ∈ t.out →
    code ≠ .ok → t.phase = .idle ∧ SettingsKept s t ∧
      ∀ c, ∃ u, exec (.cap c) t = .next u ∧ u.out = [.resp (.ack 0#32)]) ∧
  (∀ (i : Instr) (s t : State) (r : Reason), exec i s = .next t → .resp (.rej r) ∈ t.out → SettingsKept s t)

/-- 10_state.md R22 and 70_reset_and_hazards.md R104: what an unspecified byte of CMD_BUF or FB holds never shows in an
output nor in any other part of the state. -/
def Obligations.UnspecifiedBytesNeverObservable : Prop :=
  ∀ s s' t : State, Inv s → SameButUnspecified s s' → step s = .next t →
    ∃ t', step s' = .next t' ∧ t'.out = t.out ∧ SameButUnspecified t t'

/-! ## Runs of events -/

/-- 20_memory.md R33: after an accepted CAP the request is handed over whole, first byte first, and the block is then
ready to receive. -/
def Obligations.RequestSentWholeInOrder : Prop :=
  ∀ (c : Channel) (s : State), s.phase = .idle →
    ∃ t, runInstrs (.cap c :: List.replicate (build s c).length .txacc) s =
        some (t, .resp (.ack 0#32) :: (build s c).map .sent) ∧
      t.phase = .rx ∧ t.code = .pending ∧ t.lch = c ∧ t.rxCnt.toNat = 0 ∧ t.txIdx = t.cmdLen ∧
      SettingsKept s t ∧ FrameKept s t

/-- 20_memory.md R34 and 10_state.md R25: the k-th byte received goes to FB[k]; bytes a capture did not reach keep
their contents. -/
def Obligations.ResponseStoredInArrivalOrder : Prop :=
  ∀ (s : State) (f : List Byte), s.phase = .rx → s.rxCnt.toNat = 0 → f.length ≤ 4003 →
    ∃ t o, runInstrs (f.map .rxb) s = some (t, o) ∧ t.rxCnt.toNat = f.length ∧
      (∀ k b, f[k]? = some b → fbByte t k = b) ∧ (∀ a, f.length ≤ a → fbByte t a = fbByte s a)

/-- 60_exceptions.md R85 and 95_test_vectors.md S5: fewer than 4003 bytes before the timeout is a short read, whatever
the bytes are, and no sample is readable. -/
def Obligations.ShortResponseYieldsNoData : Prop :=
  ∀ (s : State) (f : List Byte), s.phase = .rx → s.rxCnt.toNat = 0 → f.length < 4003 →
    ∃ t, runInstrs (f.map .rxb ++ [.rxto]) s = some (t, [.done s.lch .shortRead]) ∧ t.phase = .idle ∧
      t.code = .shortRead ∧ t.rxCnt.toNat = f.length ∧
      ∀ i, i < 2000 → ∃ u, exec (.rdsmp i) t = .next u ∧ u.out = [.resp (.rej .noData)]

/-- 95_test_vectors.md S7 with 42_framer.md R79 to R82: a capture answered by 4003 bytes ends OK exactly when the
markers pass, and then RDSMP i answers the value of the i-th pair; else no sample is readable. -/
def Obligations.CaptureDeliversTheFrame : Prop :=
  ∀ (c : Channel) (s : State) (f : List Byte), s.phase = .idle → f.length = 4003 →
    ∃ t, runInstrs (.cap c :: (List.replicate (build s c).length .txacc ++ f.map .rxb)) s =
        some (t, .resp (.ack 0#32) :: ((build s c).map .sent ++ [.done c t.code])) ∧
      t.phase = .idle ∧ SettingsKept s t ∧
      ((s.params.legacyStartCheck = true ∨ f[0]? = some 0x53#8) ∧ f[1]? = some 0x4D#8 ∧ f[4002]? = some 0x45#8 →
        t.code = .ok ∧ ∀ i lo hi, i < 2000 → f[2 * i + 2]? = some lo → f[2 * i + 3]? = some hi →
          ∃ u v, exec (.rdsmp i) t = .next u ∧ u.out = [.resp (.ack v)] ∧
            v.toNat = lo.toNat % 128 + hi.toNat % 32 * 128) ∧
      (¬ ((s.params.legacyStartCheck = true ∨ f[0]? = some 0x53#8) ∧ f[1]? = some 0x4D#8 ∧
          f[4002]? = some 0x45#8) →
        t.code = .framingError ∧
          ∀ i, i < 2000 → ∃ u, exec (.rdsmp i) t = .next u ∧ u.out = [.resp (.rej .noData)])

/-- 70_reset_and_hazards.md R110: however many other operations and events come, without TXACC and TXERR the capture
stays in TX and CAP is rejected with BUSY. -/
def Obligations.SendingHasNoTimeout : Prop :=
  ∀ (is : List Instr) (s : State), s.phase = .tx → (∀ i ∈ is, i ≠ .txacc ∧ i ≠ .txerr) →
    ∃ t o, runInstrs is s = some (t, o) ∧ t.phase = .tx ∧ t.txIdx = s.txIdx ∧ CmdKept s t ∧
      ∀ c, ∃ u, exec (.cap c) t = .next u ∧ u.out = [.resp (.rej .busy)]

/-- 70_reset_and_hazards.md R108: the samples stay until the next accepted CAP, and then RDSMP answers NODATA until the
new capture ends. -/
def Obligations.SamplesReadableUntilNextCapture : Prop :=
  (∀ (is : List Instr) (s : State), s.phase = .idle → s.code = .ok → (∀ i ∈ is, isCap i = false) →
    ∃ t o, runInstrs is s = some (t, o) ∧ t.phase = .idle ∧ t.code = .ok ∧ ∀ i, sample t i = sample s i) ∧
  (∀ (c : Channel) (is : List Instr) (s t : State) (o : List Output), s.phase = .idle →
    runInstrs (.cap c :: is) s = some (t, o) → (∀ x ∈ o, isDone x = false) →
    ∀ i, i < 2000 → ∃ u, exec (.rdsmp i) t = .next u ∧ u.out = [.resp (.rej .noData)])

/-- 60_exceptions.md R90: from a capture in flight, a run with no new CAP ends it at most once: it emits one Done if
the block is IDLE at its end, and none if the capture is still in flight. -/
def Obligations.OneOutcomePerCapture : Prop :=
  ∀ (is : List Instr) (s t : State) (o : List Output), s.phase ≠ .idle → (∀ i ∈ is, isCap i = false) →
    runInstrs is s = some (t, o) → (o.filter isDone).length = if t.phase = .idle then 1 else 0
end

