-- ==== Sys2Proof/Laws/State.lean ====
section
/-! SUPPORT. One lemma per field per update, so that no later proof unfolds a record update. -/

namespace Sys2Proof.Machine

/-! ## withOut -/

@[simp] theorem withOut_ch1 (s : State) (o : List Output) : (withOut s o).ch1 = s.ch1 := rfl
@[simp] theorem withOut_ch2 (s : State) (o : List Output) : (withOut s o).ch2 = s.ch2 := rfl
@[simp] theorem withOut_phase (s : State) (o : List Output) : (withOut s o).phase = s.phase := rfl
@[simp] theorem withOut_code (s : State) (o : List Output) : (withOut s o).code = s.code := rfl
@[simp] theorem withOut_lch (s : State) (o : List Output) : (withOut s o).lch = s.lch := rfl
@[simp] theorem withOut_cmdBuf (s : State) (o : List Output) : (withOut s o).cmdBuf = s.cmdBuf := rfl
@[simp] theorem withOut_cmdLen (s : State) (o : List Output) : (withOut s o).cmdLen = s.cmdLen := rfl
@[simp] theorem withOut_txIdx (s : State) (o : List Output) : (withOut s o).txIdx = s.txIdx := rfl
@[simp] theorem withOut_rxCnt (s : State) (o : List Output) : (withOut s o).rxCnt = s.rxCnt := rfl
@[simp] theorem withOut_fb (s : State) (o : List Output) : (withOut s o).fb = s.fb := rfl
@[simp] theorem withOut_params (s : State) (o : List Output) : (withOut s o).params = s.params := rfl
@[simp] theorem withOut_inbox (s : State) (o : List Output) : (withOut s o).inbox = s.inbox := rfl
@[simp] theorem withOut_out (s : State) (o : List Output) : (withOut s o).out = o := rfl
@[simp] theorem withOut_cmdEpoch (s : State) (o : List Output) : (withOut s o).cmdEpoch = s.cmdEpoch := rfl
@[simp] theorem withOut_fbEpoch (s : State) (o : List Output) : (withOut s o).fbEpoch = s.fbEpoch := rfl

/-! ## withInbox -/

@[simp] theorem withInbox_ch1 (s : State) (es : List Event) : (withInbox s es).ch1 = s.ch1 := rfl
@[simp] theorem withInbox_ch2 (s : State) (es : List Event) : (withInbox s es).ch2 = s.ch2 := rfl
@[simp] theorem withInbox_phase (s : State) (es : List Event) : (withInbox s es).phase = s.phase := rfl
@[simp] theorem withInbox_code (s : State) (es : List Event) : (withInbox s es).code = s.code := rfl
@[simp] theorem withInbox_lch (s : State) (es : List Event) : (withInbox s es).lch = s.lch := rfl
@[simp] theorem withInbox_cmdBuf (s : State) (es : List Event) : (withInbox s es).cmdBuf = s.cmdBuf := rfl
@[simp] theorem withInbox_cmdLen (s : State) (es : List Event) : (withInbox s es).cmdLen = s.cmdLen := rfl
@[simp] theorem withInbox_txIdx (s : State) (es : List Event) : (withInbox s es).txIdx = s.txIdx := rfl
@[simp] theorem withInbox_rxCnt (s : State) (es : List Event) : (withInbox s es).rxCnt = s.rxCnt := rfl
@[simp] theorem withInbox_fb (s : State) (es : List Event) : (withInbox s es).fb = s.fb := rfl
@[simp] theorem withInbox_params (s : State) (es : List Event) : (withInbox s es).params = s.params := rfl
@[simp] theorem withInbox_inbox (s : State) (es : List Event) : (withInbox s es).inbox = es := rfl
@[simp] theorem withInbox_out (s : State) (es : List Event) : (withInbox s es).out = s.out := rfl
@[simp] theorem withInbox_cmdEpoch (s : State) (es : List Event) : (withInbox s es).cmdEpoch = s.cmdEpoch := rfl
@[simp] theorem withInbox_fbEpoch (s : State) (es : List Event) : (withInbox s es).fbEpoch = s.fbEpoch := rfl

/-! ## finish -/

@[simp] theorem finish_ch1 (s : State) (code : Code) : (finish s code).ch1 = s.ch1 := rfl
@[simp] theorem finish_ch2 (s : State) (code : Code) : (finish s code).ch2 = s.ch2 := rfl
@[simp] theorem finish_phase (s : State) (code : Code) : (finish s code).phase = .idle := rfl
@[simp] theorem finish_code (s : State) (code : Code) : (finish s code).code = code := rfl
@[simp] theorem finish_lch (s : State) (code : Code) : (finish s code).lch = s.lch := rfl
@[simp] theorem finish_cmdBuf (s : State) (code : Code) : (finish s code).cmdBuf = s.cmdBuf := rfl
@[simp] theorem finish_cmdLen (s : State) (code : Code) : (finish s code).cmdLen = s.cmdLen := rfl
@[simp] theorem finish_txIdx (s : State) (code : Code) : (finish s code).txIdx = s.txIdx := rfl
@[simp] theorem finish_rxCnt (s : State) (code : Code) : (finish s code).rxCnt = s.rxCnt := rfl
@[simp] theorem finish_fb (s : State) (code : Code) : (finish s code).fb = s.fb := rfl
@[simp] theorem finish_params (s : State) (code : Code) : (finish s code).params = s.params := rfl
@[simp] theorem finish_inbox (s : State) (code : Code) : (finish s code).inbox = s.inbox := rfl
@[simp] theorem finish_out (s : State) (code : Code) : (finish s code).out = [.done s.lch code] := rfl
@[simp] theorem finish_cmdEpoch (s : State) (code : Code) : (finish s code).cmdEpoch = s.cmdEpoch := rfl
@[simp] theorem finish_fbEpoch (s : State) (code : Code) : (finish s code).fbEpoch = s.fbEpoch := rfl

/-! ## storeFrameByte -/

@[simp] theorem storeFrameByte_ch1 (s : State) (b : Byte) : (storeFrameByte s b).ch1 = s.ch1 := rfl
@[simp] theorem storeFrameByte_ch2 (s : State) (b : Byte) : (storeFrameByte s b).ch2 = s.ch2 := rfl
@[simp] theorem storeFrameByte_phase (s : State) (b : Byte) : (storeFrameByte s b).phase = s.phase := rfl
@[simp] theorem storeFrameByte_code (s : State) (b : Byte) : (storeFrameByte s b).code = s.code := rfl
@[simp] theorem storeFrameByte_lch (s : State) (b : Byte) : (storeFrameByte s b).lch = s.lch := rfl
@[simp] theorem storeFrameByte_cmdBuf (s : State) (b : Byte) : (storeFrameByte s b).cmdBuf = s.cmdBuf := rfl
@[simp] theorem storeFrameByte_cmdLen (s : State) (b : Byte) : (storeFrameByte s b).cmdLen = s.cmdLen := rfl
@[simp] theorem storeFrameByte_txIdx (s : State) (b : Byte) : (storeFrameByte s b).txIdx = s.txIdx := rfl
@[simp] theorem storeFrameByte_rxCnt (s : State) (b : Byte) : (storeFrameByte s b).rxCnt = s.rxCnt + 1#13 := rfl
@[simp] theorem storeFrameByte_fb (s : State) (b : Byte) : (storeFrameByte s b).fb = memWrite s.fb s.rxCnt.toNat b := rfl
@[simp] theorem storeFrameByte_params (s : State) (b : Byte) : (storeFrameByte s b).params = s.params := rfl
@[simp] theorem storeFrameByte_inbox (s : State) (b : Byte) : (storeFrameByte s b).inbox = s.inbox := rfl
@[simp] theorem storeFrameByte_out (s : State) (b : Byte) : (storeFrameByte s b).out = s.out := rfl
@[simp] theorem storeFrameByte_cmdEpoch (s : State) (b : Byte) : (storeFrameByte s b).cmdEpoch = s.cmdEpoch := rfl
@[simp] theorem storeFrameByte_fbEpoch (s : State) (b : Byte) : (storeFrameByte s b).fbEpoch = s.fbEpoch := rfl

/-! ## advanceTx -/

@[simp] theorem advanceTx_ch1 (s : State) : (advanceTx s).ch1 = s.ch1 := rfl
@[simp] theorem advanceTx_ch2 (s : State) : (advanceTx s).ch2 = s.ch2 := rfl
@[simp] theorem advanceTx_phase (s : State) : (advanceTx s).phase = if s.txIdx + 1#4 = s.cmdLen then .rx else s.phase := rfl
@[simp] theorem advanceTx_code (s : State) : (advanceTx s).code = s.code := rfl
@[simp] theorem advanceTx_lch (s : State) : (advanceTx s).lch = s.lch := rfl
@[simp] theorem advanceTx_cmdBuf (s : State) : (advanceTx s).cmdBuf = s.cmdBuf := rfl
@[simp] theorem advanceTx_cmdLen (s : State) : (advanceTx s).cmdLen = s.cmdLen := rfl
@[simp] theorem advanceTx_txIdx (s : State) : (advanceTx s).txIdx = s.txIdx + 1#4 := rfl
@[simp] theorem advanceTx_rxCnt (s : State) : (advanceTx s).rxCnt = s.rxCnt := rfl
@[simp] theorem advanceTx_fb (s : State) : (advanceTx s).fb = s.fb := rfl
@[simp] theorem advanceTx_params (s : State) : (advanceTx s).params = s.params := rfl
@[simp] theorem advanceTx_inbox (s : State) : (advanceTx s).inbox = s.inbox := rfl
@[simp] theorem advanceTx_out (s : State) : (advanceTx s).out = s.out := rfl
@[simp] theorem advanceTx_cmdEpoch (s : State) : (advanceTx s).cmdEpoch = s.cmdEpoch := rfl
@[simp] theorem advanceTx_fbEpoch (s : State) : (advanceTx s).fbEpoch = s.fbEpoch := rfl

/-! ## latchCapture -/

@[simp] theorem latchCapture_ch1 (s : State) (c : Channel) (r : List Byte) : (latchCapture s c r).ch1 = s.ch1 := rfl
@[simp] theorem latchCapture_ch2 (s : State) (c : Channel) (r : List Byte) : (latchCapture s c r).ch2 = s.ch2 := rfl
@[simp] theorem latchCapture_phase (s : State) (c : Channel) (r : List Byte) : (latchCapture s c r).phase = .tx := rfl
@[simp] theorem latchCapture_code (s : State) (c : Channel) (r : List Byte) : (latchCapture s c r).code = .pending := rfl
@[simp] theorem latchCapture_lch (s : State) (c : Channel) (r : List Byte) : (latchCapture s c r).lch = c := rfl
@[simp] theorem latchCapture_cmdBuf (s : State) (c : Channel) (r : List Byte) : (latchCapture s c r).cmdBuf = memFrom 0 r := rfl
@[simp] theorem latchCapture_cmdLen (s : State) (c : Channel) (r : List Byte) : (latchCapture s c r).cmdLen = BitVec.ofNat 4 r.length := rfl
@[simp] theorem latchCapture_txIdx (s : State) (c : Channel) (r : List Byte) : (latchCapture s c r).txIdx = 0#4 := rfl
@[simp] theorem latchCapture_rxCnt (s : State) (c : Channel) (r : List Byte) : (latchCapture s c r).rxCnt = 0#13 := rfl
@[simp] theorem latchCapture_fb (s : State) (c : Channel) (r : List Byte) : (latchCapture s c r).fb = s.fb := rfl
@[simp] theorem latchCapture_params (s : State) (c : Channel) (r : List Byte) : (latchCapture s c r).params = s.params := rfl
@[simp] theorem latchCapture_inbox (s : State) (c : Channel) (r : List Byte) : (latchCapture s c r).inbox = s.inbox := rfl
@[simp] theorem latchCapture_out (s : State) (c : Channel) (r : List Byte) : (latchCapture s c r).out = s.out := rfl
@[simp] theorem latchCapture_cmdEpoch (s : State) (c : Channel) (r : List Byte) : (latchCapture s c r).cmdEpoch = s.cmdEpoch + 1 := rfl
@[simp] theorem latchCapture_fbEpoch (s : State) (c : Channel) (r : List Byte) : (latchCapture s c r).fbEpoch = s.fbEpoch := rfl

/-! ## resetBlock -/

@[simp] theorem resetBlock_ch1 (s : State) : (resetBlock s).ch1 = resetSettings s.params := rfl
@[simp] theorem resetBlock_ch2 (s : State) : (resetBlock s).ch2 = resetSettings s.params := rfl
@[simp] theorem resetBlock_phase (s : State) : (resetBlock s).phase = .idle := rfl
@[simp] theorem resetBlock_code (s : State) : (resetBlock s).code = .none := rfl
@[simp] theorem resetBlock_lch (s : State) : (resetBlock s).lch = .ch1 := rfl
@[simp] theorem resetBlock_cmdBuf (s : State) : (resetBlock s).cmdBuf = [] := rfl
@[simp] theorem resetBlock_cmdLen (s : State) : (resetBlock s).cmdLen = 0#4 := rfl
@[simp] theorem resetBlock_txIdx (s : State) : (resetBlock s).txIdx = 0#4 := rfl
@[simp] theorem resetBlock_rxCnt (s : State) : (resetBlock s).rxCnt = 0#13 := rfl
@[simp] theorem resetBlock_fb (s : State) : (resetBlock s).fb = [] := rfl
@[simp] theorem resetBlock_params (s : State) : (resetBlock s).params = s.params := rfl
@[simp] theorem resetBlock_inbox (s : State) : (resetBlock s).inbox = s.inbox := rfl
@[simp] theorem resetBlock_out (s : State) : (resetBlock s).out = [] := rfl
@[simp] theorem resetBlock_cmdEpoch (s : State) : (resetBlock s).cmdEpoch = s.cmdEpoch + 1 := rfl
@[simp] theorem resetBlock_fbEpoch (s : State) : (resetBlock s).fbEpoch = s.fbEpoch + 1 := rfl

/-! ## setSettings: only the settings change -/

@[simp] theorem setSettings_phase (s : State) (c : Channel) (v : Settings) : (setSettings s c v).phase = s.phase := by
  cases c <;> rfl
@[simp] theorem setSettings_code (s : State) (c : Channel) (v : Settings) : (setSettings s c v).code = s.code := by
  cases c <;> rfl
@[simp] theorem setSettings_lch (s : State) (c : Channel) (v : Settings) : (setSettings s c v).lch = s.lch := by
  cases c <;> rfl
@[simp] theorem setSettings_cmdBuf (s : State) (c : Channel) (v : Settings) : (setSettings s c v).cmdBuf = s.cmdBuf := by
  cases c <;> rfl
@[simp] theorem setSettings_cmdLen (s : State) (c : Channel) (v : Settings) : (setSettings s c v).cmdLen = s.cmdLen := by
  cases c <;> rfl
@[simp] theorem setSettings_txIdx (s : State) (c : Channel) (v : Settings) : (setSettings s c v).txIdx = s.txIdx := by
  cases c <;> rfl
@[simp] theorem setSettings_rxCnt (s : State) (c : Channel) (v : Settings) : (setSettings s c v).rxCnt = s.rxCnt := by
  cases c <;> rfl
@[simp] theorem setSettings_fb (s : State) (c : Channel) (v : Settings) : (setSettings s c v).fb = s.fb := by
  cases c <;> rfl
@[simp] theorem setSettings_params (s : State) (c : Channel) (v : Settings) : (setSettings s c v).params = s.params := by
  cases c <;> rfl
@[simp] theorem setSettings_inbox (s : State) (c : Channel) (v : Settings) : (setSettings s c v).inbox = s.inbox := by
  cases c <;> rfl
@[simp] theorem setSettings_out (s : State) (c : Channel) (v : Settings) : (setSettings s c v).out = s.out := by
  cases c <;> rfl
@[simp] theorem setSettings_cmdEpoch (s : State) (c : Channel) (v : Settings) : (setSettings s c v).cmdEpoch = s.cmdEpoch := by
  cases c <;> rfl
@[simp] theorem setSettings_fbEpoch (s : State) (c : Channel) (v : Settings) : (setSettings s c v).fbEpoch = s.fbEpoch := by
  cases c <;> rfl

@[simp] theorem settings_setSettings_same (s : State) (c : Channel) (v : Settings) :
    settings (setSettings s c v) c = v := by
  cases c <;> rfl

theorem settings_setSettings_other (s : State) {c d : Channel} (v : Settings) (h : d ≠ c) :
    settings (setSettings s c v) d = settings s d := by
  cases c <;> cases d <;> first | rfl | exact absurd rfl h

/-! ## settings: what each update leaves -/

@[simp] theorem settings_withOut (s : State) (o : List Output) (d : Channel) :
    settings (withOut s o) d = settings s d := by
  cases d <;> rfl
@[simp] theorem settings_withInbox (s : State) (es : List Event) (d : Channel) :
    settings (withInbox s es) d = settings s d := by
  cases d <;> rfl
@[simp] theorem settings_finish (s : State) (code : Code) (d : Channel) :
    settings (finish s code) d = settings s d := by
  cases d <;> rfl
@[simp] theorem settings_storeFrameByte (s : State) (b : Byte) (d : Channel) :
    settings (storeFrameByte s b) d = settings s d := by
  cases d <;> rfl
@[simp] theorem settings_advanceTx (s : State) (d : Channel) :
    settings (advanceTx s) d = settings s d := by
  cases d <;> rfl
@[simp] theorem settings_latchCapture (s : State) (c : Channel) (r : List Byte) (d : Channel) :
    settings (latchCapture s c r) d = settings s d := by
  cases d <;> rfl
@[simp] theorem settings_resetBlock (s : State) (c : Channel) :
    settings (resetBlock s) c = resetSettings s.params := by
  cases c <;> rfl

/-! ## Bytes of the buffers: what each update leaves -/

@[simp] theorem fbByte_withOut (s : State) (o : List Output) (a : Nat) :
    fbByte (withOut s o) a = fbByte s a := rfl
@[simp] theorem cmdByte_withOut (s : State) (o : List Output) (k : Nat) :
    cmdByte (withOut s o) k = cmdByte s k := rfl
@[simp] theorem fbByte_withInbox (s : State) (es : List Event) (a : Nat) :
    fbByte (withInbox s es) a = fbByte s a := rfl
@[simp] theorem cmdByte_withInbox (s : State) (es : List Event) (k : Nat) :
    cmdByte (withInbox s es) k = cmdByte s k := rfl
@[simp] theorem fbByte_finish (s : State) (code : Code) (a : Nat) :
    fbByte (finish s code) a = fbByte s a := rfl
@[simp] theorem cmdByte_finish (s : State) (code : Code) (k : Nat) :
    cmdByte (finish s code) k = cmdByte s k := rfl
@[simp] theorem cmdByte_storeFrameByte (s : State) (b : Byte) (k : Nat) :
    cmdByte (storeFrameByte s b) k = cmdByte s k := rfl
@[simp] theorem fbByte_advanceTx (s : State) (a : Nat) :
    fbByte (advanceTx s) a = fbByte s a := rfl
@[simp] theorem cmdByte_advanceTx (s : State) (k : Nat) :
    cmdByte (advanceTx s) k = cmdByte s k := rfl
@[simp] theorem fbByte_latchCapture (s : State) (c : Channel) (r : List Byte) (a : Nat) :
    fbByte (latchCapture s c r) a = fbByte s a := rfl
@[simp] theorem fbByte_setSettings (s : State) (c : Channel) (v : Settings) (a : Nat) :
    fbByte (setSettings s c v) a = fbByte s a := by
  cases c <;> rfl
@[simp] theorem cmdByte_setSettings (s : State) (c : Channel) (v : Settings) (k : Nat) :
    cmdByte (setSettings s c v) k = cmdByte s k := by
  cases c <;> rfl

end Sys2Proof.Machine
end

