-- ==== Sys2Proof/Laws/Decode.lean ====
section
/-! SUPPORT. The fields of an assembled word, the fields as bits of the word, and what the decoder answers by them. -/

namespace Sys2Proof

theorem opOf_toNat (w : HostWord) : (opOf w).toNat = w.toNat % 16 := by
  simp [opOf]

theorem chOf_toNat (w : HostWord) : (chOf w).toNat = w.toNat / 16 % 2 := by
  simp [chOf, Nat.shiftRight_eq_div_pow]

theorem idxOf_toNat (w : HostWord) : (idxOf w).toNat = w.toNat / 32 := by
  simp [idxOf, Nat.shiftRight_eq_div_pow]
  omega

theorem kindOf_toNat (e : EventWord) : (kindOf e).toNat = e.toNat / 256 := by
  simp [kindOf, Nat.shiftRight_eq_div_pow]
  omega

theorem dataOf_toNat (e : EventWord) : (dataOf e).toNat = e.toNat % 256 := by
  simp [dataOf]

theorem hostWord_toNat (op : BitVec 4) (ch : BitVec 1) (idx : BitVec 11) :
    (hostWord op ch idx).toNat = 32 * idx.toNat + 16 * ch.toNat + op.toNat := by
  simp only [hostWord, BitVec.toNat_append]
  rw [← Nat.shiftLeft_add_eq_or_of_lt ch.isLt, ← Nat.shiftLeft_add_eq_or_of_lt op.isLt]
  simp only [Nat.shiftLeft_eq]
  omega

theorem eventWord_toNat (kind : BitVec 2) (data : Byte) :
    (eventWord kind data).toNat = 256 * kind.toNat + data.toNat := by
  simp only [eventWord, BitVec.toNat_append]
  rw [← Nat.shiftLeft_add_eq_or_of_lt data.isLt]
  simp only [Nat.shiftLeft_eq]
  omega

@[simp] theorem opOf_hostWord (op : BitVec 4) (ch : BitVec 1) (idx : BitVec 11) : opOf (hostWord op ch idx) = op := by
  apply BitVec.eq_of_toNat_eq
  rw [opOf_toNat, hostWord_toNat]
  omega

@[simp] theorem chOf_hostWord (op : BitVec 4) (ch : BitVec 1) (idx : BitVec 11) : chOf (hostWord op ch idx) = ch := by
  apply BitVec.eq_of_toNat_eq
  rw [chOf_toNat, hostWord_toNat]
  omega

@[simp] theorem idxOf_hostWord (op : BitVec 4) (ch : BitVec 1) (idx : BitVec 11) :
    idxOf (hostWord op ch idx) = idx := by
  apply BitVec.eq_of_toNat_eq
  rw [idxOf_toNat, hostWord_toNat]
  omega

@[simp] theorem kindOf_eventWord (kind : BitVec 2) (data : Byte) : kindOf (eventWord kind data) = kind := by
  apply BitVec.eq_of_toNat_eq
  rw [kindOf_toNat, eventWord_toNat]
  omega

@[simp] theorem dataOf_eventWord (kind : BitVec 2) (data : Byte) : dataOf (eventWord kind data) = data := by
  apply BitVec.eq_of_toNat_eq
  rw [dataOf_toNat, eventWord_toNat]
  omega

/-- A host word is its three fields. -/
theorem hostWord_fields (w : HostWord) : hostWord (opOf w) (chOf w) (idxOf w) = w := by
  apply BitVec.eq_of_toNat_eq
  rw [hostWord_toNat, opOf_toNat, chOf_toNat, idxOf_toNat]
  omega

/-- An event word is its two fields. -/
theorem eventWord_fields (e : EventWord) : eventWord (kindOf e) (dataOf e) = e := by
  apply BitVec.eq_of_toNat_eq
  rw [eventWord_toNat, kindOf_toNat, dataOf_toNat]
  omega

@[simp] theorem channelOf_channelBit (c : Channel) : channelOf (channelBit c) = c := by
  cases c <;> rfl

@[simp] theorem channelBit_channelOf (b : BitVec 1) : channelBit (channelOf b) = b := by
  have h : b.toNat < 2 := b.isLt
  by_cases h0 : b = 0#1
  · simp [channelOf, channelBit, h0]
  · have : b = 1#1 := by
      apply BitVec.eq_of_toNat_eq
      have : b.toNat ≠ 0 := fun e => h0 (BitVec.eq_of_toNat_eq (by simpa using e))
      simp only [BitVec.toNat_ofNat]
      omega
    subst this
    rfl

/-- OP as bits of the word. -/
theorem bitsAt_op (w : HostWord) : Safety.bitsAt w 0 4 = (opOf w).toNat := by
  simp [Safety.bitsAt, opOf_toNat]

/-- CH as a bit of the word. -/
theorem bitsAt_ch (w : HostWord) : Safety.bitsAt w 4 1 = (chOf w).toNat := by
  simp [Safety.bitsAt, chOf_toNat]

/-- IDX as bits of the word. -/
theorem bitsAt_idx (w : HostWord) : Safety.bitsAt w 5 11 = (idxOf w).toNat := by
  simp only [Safety.bitsAt, idxOf_toNat]
  omega

/-- KIND as bits of the word. -/
theorem bitsAt_kind (e : EventWord) : Safety.bitsAt e 8 2 = (kindOf e).toNat := by
  simp only [Safety.bitsAt, kindOf_toNat]
  omega

/-- DATA as bits of the word. -/
theorem bitsAt_data (e : EventWord) : Safety.bitsAt e 0 8 = (dataOf e).toNat := by
  simp [Safety.bitsAt, dataOf_toNat]

/-- The operation codes that name an operation. -/
theorem hostInstr_isSome (op : Nat) (c : Channel) (i : Nat) :
    (hostInstr op c i).isSome = true ↔ 1 ≤ op ∧ op ≤ 0xB := by
  unfold hostInstr
  split <;> simp_all
  omega

/-- Everything decodeHost can answer. -/
theorem decodeHost_cases (w : HostWord) :
    (∃ i, hostInstr (opOf w).toNat (channelOf (chOf w)) (idxOf w).toNat = some i ∧ decodeHost w = .ok i ∧
      ((opOf w).toNat = 0xB ∨ idxOf w = 0#11) ∧ ((opOf w).toNat < 0xA ∨ chOf w = 0#1)) ∨
    (∃ r, decodeHost w = .error r ∧
      ((opOf w).toNat = 0 ∨ 0xC ≤ (opOf w).toNat ∨ ((opOf w).toNat ≠ 0xB ∧ idxOf w ≠ 0#11) ∨
        (0xA ≤ (opOf w).toNat ∧ chOf w ≠ 0#1))) := by
  have hs := hostInstr_isSome (opOf w).toNat (channelOf (chOf w)) (idxOf w).toNat
  unfold decodeHost
  split
  · rename_i hn
    rw [hn] at hs
    simp only [Option.isSome_none, Bool.false_eq_true, false_iff, not_and] at hs
    exact .inr ⟨.reservedOp, rfl, by omega⟩
  · rename_i i hi
    split
    · rename_i h
      exact .inr ⟨.idxNotZero, rfl, .inr (.inr (.inl h))⟩
    · rename_i h
      split
      · rename_i h'
        exact .inr ⟨.chNotZero, rfl, .inr (.inr (.inr h'))⟩
      · rename_i h'
        refine .inl ⟨i, hi, rfl, ?_, ?_⟩
        · by_cases e : (opOf w).toNat = 0xB
          · exact .inl e
          · exact .inr (Classical.byContradiction fun hne => h ⟨e, hne⟩)
        · by_cases e : (opOf w).toNat < 0xA
          · exact .inl e
          · exact .inr (Classical.byContradiction fun hne => h' ⟨by omega, hne⟩)

end Sys2Proof
end

