-- ==== Sys2Proof/Laws/Memory.lean ====
section
/-! SUPPORT. The buffers: a read after a write, and that every buffer operation keeps the canonical form. -/

namespace Sys2Proof.Machine

theorem memRead_memWrite_same (m : Mem) (a : Nat) (v : Byte) : memRead (memWrite m a v) a = some v := by
  induction m with
  | nil => simp [memWrite, memRead]
  | cons c m ih =>
    obtain ⟨b, w⟩ := c
    simp only [memWrite]
    split
    · simp [memRead]
    · split
      · simp [memRead]
      · rename_i h
        simp [memRead, h, ih]

theorem memRead_memWrite_other (m : Mem) {a x : Nat} (v : Byte) (h : x ≠ a) :
    memRead (memWrite m a v) x = memRead m x := by
  induction m with
  | nil => simp [memWrite, memRead, h]
  | cons c m ih =>
    obtain ⟨b, w⟩ := c
    simp only [memWrite]
    split
    · simp [memRead, h]
    · split
      · rename_i hab
        subst hab
        simp [memRead, h]
      · simp [memRead, ih]

theorem memRead_memFrom (bs : List Byte) (k x : Nat) :
    memRead (memFrom k bs) x = if k ≤ x then bs[x - k]? else none := by
  induction bs generalizing k with
  | nil => simp [memFrom, memRead]
  | cons b bs ih =>
    simp only [memFrom, memRead, ih]
    by_cases h : x = k
    · simp [h]
    · by_cases hk : k ≤ x
      · obtain ⟨n, rfl⟩ : ∃ n, x = k + 1 + n := ⟨x - (k + 1), by omega⟩
        have e : k + 1 + n - k = n + 1 := by omega
        have e' : k + 1 + n - (k + 1) = n := by omega
        simp [h, hk, e, e']
      · have : ¬ k + 1 ≤ x := by omega
        simp [h, hk, this]

theorem risingFrom_mono {m : Mem} {lo lo' : Nat} (hle : lo' ≤ lo) (h : risingFrom lo m = true) :
    risingFrom lo' m = true := by
  cases m with
  | nil => rfl
  | cons c m =>
    simp only [risingFrom, Bool.and_eq_true, decide_eq_true_eq] at h ⊢
    exact ⟨by omega, h.2⟩

theorem risingFrom_memWrite {m : Mem} {lo a : Nat} (v : Byte) (hlo : lo ≤ a) (h : risingFrom lo m = true) :
    risingFrom lo (memWrite m a v) = true := by
  induction m generalizing lo with
  | nil => simp [memWrite, risingFrom, hlo]
  | cons c m ih =>
    obtain ⟨b, w⟩ := c
    simp only [risingFrom, Bool.and_eq_true, decide_eq_true_eq] at h
    simp only [memWrite]
    split
    · simp only [risingFrom, Bool.and_eq_true, decide_eq_true_eq]
      exact ⟨hlo, by omega, h.2⟩
    · split
      · rename_i hab
        subst hab
        simp only [risingFrom, Bool.and_eq_true, decide_eq_true_eq]
        exact ⟨hlo, h.2⟩
      · simp only [risingFrom, Bool.and_eq_true, decide_eq_true_eq]
        exact ⟨h.1, ih (by omega) h.2⟩

theorem below_memWrite {m : Mem} {n a : Nat} (v : Byte) (ha : a < n)
    (h : m.all (fun c => decide (c.1 < n)) = true) :
    (memWrite m a v).all (fun c => decide (c.1 < n)) = true := by
  induction m with
  | nil => simp [memWrite, ha]
  | cons c m ih =>
    obtain ⟨b, w⟩ := c
    simp only [List.all_cons, Bool.and_eq_true, decide_eq_true_eq] at h
    simp only [memWrite]
    split
    · simp only [List.all_cons, Bool.and_eq_true, decide_eq_true_eq]
      exact ⟨ha, h⟩
    · split
      · simp only [List.all_cons, Bool.and_eq_true, decide_eq_true_eq]
        exact ⟨ha, h.2⟩
      · simp only [List.all_cons, Bool.and_eq_true, decide_eq_true_eq]
        exact ⟨h.1, ih h.2⟩

/-- A write inside the buffer keeps its canonical form. -/
theorem wf_memWrite {n a : Nat} {m : Mem} (v : Byte) (ha : a < n) (h : Memory.wf n m = true) :
    Memory.wf n (memWrite m a v) = true := by
  simp only [Memory.wf, Bool.and_eq_true] at h ⊢
  exact ⟨risingFrom_memWrite v (Nat.zero_le a) h.1, below_memWrite v ha h.2⟩

theorem risingFrom_memFrom (bs : List Byte) (k : Nat) : risingFrom k (memFrom k bs) = true := by
  induction bs generalizing k with
  | nil => rfl
  | cons b bs ih => simp [memFrom, risingFrom, ih]

theorem below_memFrom {n : Nat} (bs : List Byte) (k : Nat) (h : k + bs.length ≤ n) :
    (memFrom k bs).all (fun c => decide (c.1 < n)) = true := by
  induction bs generalizing k with
  | nil => rfl
  | cons b bs ih =>
    simp only [List.length_cons] at h
    simp only [memFrom, List.all_cons, Bool.and_eq_true, decide_eq_true_eq]
    exact ⟨by omega, ih (k + 1) (by omega)⟩

/-- A buffer filled from index 0 by at most its size of bytes is in canonical form. -/
theorem wf_memFrom {n : Nat} (bs : List Byte) (h : bs.length ≤ n) : Memory.wf n (memFrom 0 bs) = true := by
  simp only [Memory.wf, Bool.and_eq_true]
  exact ⟨risingFrom_mono (Nat.le_refl 0) (risingFrom_memFrom bs 0), below_memFrom bs 0 (by omega)⟩

theorem wf_nil (n : Nat) : Memory.wf n [] = true := rfl

theorem wf_cmdBuf_reset : Memory.wf cmdSize State.reset.cmdBuf = true := rfl

theorem wf_fb_reset : Memory.wf frameLen State.reset.fb = true := rfl

/-- MemRead after MemWrite at the same index. -/
theorem fbByte_storeFrameByte_same (s : State) (b : Byte) : fbByte (storeFrameByte s b) s.rxCnt.toNat = b := by
  simp [fbByte, memRead_memWrite_same]

/-- MemRead after MemWrite at another index. -/
theorem fbByte_storeFrameByte_other (s : State) (b : Byte) {a : Nat} (h : a ≠ s.rxCnt.toNat) :
    fbByte (storeFrameByte s b) a = fbByte s a := by
  simp [fbByte, memRead_memWrite_other _ _ h]

/-- CMD_BUF after the latch of an accepted CAP holds the request. -/
theorem cmdByte_latchCapture (s : State) (c : Channel) (r : List Byte) {k : Nat} {b : Byte} (h : r[k]? = some b) :
    cmdByte (latchCapture s c r) k = b := by
  simp [cmdByte, memRead_memFrom, h]

end Sys2Proof.Machine
end

