-- ==== Sys2Proof/Laws/Ops.lean ====
section
/-! SUPPORT. One lemma per shared operation: everything it can do. Later proofs cite these and unfold no operation. -/

namespace Sys2Proof.Machine

open Sys2Proof.Safety

/-! ## The constants, as numerals -/

theorem frameLen_eq : frameLen = 4003 := rfl
theorem cmdSize_eq : cmdSize = 10 := rfl
theorem nSamples_eq : nSamples = 2000 := rfl
theorem tbMax_eq : tbMax = 6 := rfl
theorem trigMin_eq : trigMin = 128 := rfl
theorem trigMax_eq : trigMax = 3968 := rfl
theorem trigStep_eq : trigStep = 256 := rfl

/-! ## The settings arithmetic -/

theorem incTb_toNat (t : BitVec 3) : (incTb t).toNat = if t.toNat < 6 then t.toNat + 1 else t.toNat := by
  unfold incTb
  rw [tbMax_eq]
  split
  · simp only [BitVec.toNat_add, BitVec.toNat_ofNat]
    omega
  · rfl

theorem decTb_toNat (t : BitVec 3) : (decTb t).toNat = t.toNat - 1 := by
  have := t.isLt
  unfold decTb
  split
  · simp only [BitVec.toNat_sub, BitVec.toNat_ofNat]
    omega
  · omega

/-- What INCTRIG makes of a level. -/
theorem incTrig_toNat (p : TrigPolicy) (v : BitVec 13) :
    (incTrig p v).toNat =
      if v.toNat < 3968 then
        match p with
        | .saturate => min (v.toNat + 256) 3968
        | .literal => v.toNat + 256
      else v.toNat := by
  have := v.isLt
  unfold incTrig
  rw [trigMax_eq, trigStep_eq]
  split
  · cases p <;> simp only [BitVec.toNat_ofNat] <;> omega
  · rfl

/-- What DECTRIG makes of a level under SATURATE. -/
theorem decTrig_saturate_toNat (v : BitVec 13) :
    (decTrig .saturate v).toNat = if 128 < v.toNat then max (v.toNat - 256) 128 else v.toNat := by
  have := v.isLt
  unfold decTrig
  rw [trigMin_eq, trigStep_eq]
  split
  · simp only [BitVec.toNat_ofNat]
    omega
  · rfl

/-- What DECTRIG makes of a level under LITERAL, where 40_settings.md R68 gives it. -/
theorem decTrig_literal_toNat (v : BitVec 13) (h : v.toNat ≤ 128 ∨ 256 ≤ v.toNat) :
    (decTrig .literal v).toNat = if 128 < v.toNat then v.toNat - 256 else v.toNat := by
  have := v.isLt
  unfold decTrig
  rw [trigMin_eq, trigStep_eq]
  split
  · rename_i hv
    have h2 : 256 ≤ v.toNat := h.resolve_left (by omega)
    simp only [if_pos h2, BitVec.toNat_ofNat]
    omega
  · rfl

@[simp] theorem toggleEdge_toggleEdge (e : Edge) : toggleEdge (toggleEdge e) = e := by
  cases e <;> rfl

/-! ## Decimal strings and the request -/

theorem decDigits_stop {fuel v : Nat} (h : v < 10) : decDigits (fuel + 1) v = [digit v] := by
  simp [decDigits, h]

theorem decDigits_more {fuel v : Nat} (h : 10 ≤ v) :
    decDigits (fuel + 1) v = decDigits fuel (v / 10) ++ [digit (v % 10)] := by
  have : ¬ v < 10 := by omega
  simp [decDigits, this]

/-- The number of digits of a 13-bit level. -/
theorem dec_length (v : BitVec 13) :
    (dec v).length =
      if v.toNat < 10 then 1 else if v.toNat < 100 then 2 else if v.toNat < 1000 then 3 else 4 := by
  have hv := v.isLt
  unfold dec
  split
  · rename_i h
    simp [decDigits_stop h]
  · rename_i h
    rw [decDigits_more (by omega)]
    split
    · rename_i h1
      simp [decDigits_stop (show v.toNat / 10 < 10 by omega)]
    · rename_i h1
      rw [decDigits_more (by omega)]
      split
      · simp [decDigits_stop (show v.toNat / 10 / 10 < 10 by omega)]
      · rw [decDigits_more (by omega)]
        simp [decDigits_stop (show v.toNat / 10 / 10 / 10 < 10 by omega)]

theorem digit_toNat {d : Nat} (h : d < 10) : (digit d).toNat = 0x30 + d := by
  simp only [digit, BitVec.toNat_add, BitVec.toNat_ofNat]
  omega

/-- Every byte of a decimal string is the digit of a number below ten. -/
theorem decDigits_digits (fuel v : Nat) : ∀ b ∈ decDigits fuel v, ∃ d, d < 10 ∧ b = digit d := by
  induction fuel generalizing v with
  | zero => simp [decDigits]
  | succ fuel ih =>
    intro b hb
    by_cases h : v < 10
    · rw [decDigits_stop h] at hb
      exact ⟨v, h, by simpa using hb⟩
    · rw [decDigits_more (by omega)] at hb
      rcases List.mem_append.mp hb with hb | hb
      · exact ih _ b hb
      · exact ⟨v % 10, by omega, by simpa using hb⟩

theorem build_length (s : State) (c : Channel) :
    (build s c).length = 6 + (dec (settings s c).trig).length := by
  simp only [build, List.length_append, List.length_cons, List.length_nil]
  omega

/-- The request of any state has 7 to 10 bytes, so CMD_BUF holds it and CMD_LEN counts it. -/
theorem build_length_bounds (s : State) (c : Channel) : 7 ≤ (build s c).length ∧ (build s c).length ≤ 10 := by
  rw [build_length, dec_length]
  split
  · omega
  · split
    · omega
    · split <;> omega

theorem cmdLen_latchCapture_toNat (s : State) (c : Channel) :
    (latchCapture s c (build s c)).cmdLen.toNat = (build s c).length := by
  have := build_length_bounds s c
  simp only [latchCapture_cmdLen, BitVec.toNat_ofNat]
  omega

/-! ## Samples -/

/-- The unpacker (42_framer.md R82) without masks. -/
theorem unpack_toNat (lo hi : Byte) : (unpack lo hi).toNat = lo.toNat % 128 + hi.toNat % 32 * 128 := by
  have h1 : lo.toNat &&& 127 = lo.toNat % 128 := Nat.and_two_pow_sub_one_eq_mod lo.toNat 7
  have h2 : hi.toNat &&& 31 = hi.toNat % 32 := Nat.and_two_pow_sub_one_eq_mod hi.toNat 5
  simp only [unpack, BitVec.toNat_ofNat, BitVec.toNat_and]
  norm_num
  rw [h1, h2]
  omega

/-! ## The ends of a step -/

theorem allKept_withOut (s : State) (o : List Output) : AllKept s (withOut s o) :=
  ⟨⟨rfl, rfl⟩, ⟨rfl, rfl, rfl, rfl, rfl, rfl⟩, fun _ => rfl, fun _ => rfl, rfl, rfl⟩

theorem respond_next {s t : State} {v : Value} (h : respond s v = .next t) : t = withOut s [.resp (.ack v)] := by
  simpa [respond] using h.symm

theorem reject_next {s t : State} {r : Reason} (h : reject s r = .next t) : t = withOut s [.resp (.rej r)] := by
  simpa [reject] using h.symm

theorem ignoreEvent_next {s t : State} (h : ignoreEvent s = .next t) : t = withOut s [] := by
  simpa [ignoreEvent] using h.symm

/-! ## The meanings, by case -/

/-- Everything CAP can do. -/
theorem execCap_cases (c : Channel) (s : State) :
    (s.phase = .idle ∧ execCap c s = .next (withOut (latchCapture s c (build s c)) [.resp (.ack 0#32)])) ∨
    (s.phase ≠ .idle ∧ execCap c s = .next (withOut s [.resp (.rej .busy)])) := by
  unfold execCap
  split
  · exact .inl ⟨‹_›, rfl⟩
  · exact .inr ⟨‹_›, rfl⟩

/-- Everything RDSMP can do. -/
theorem execRdsmp_cases (i : Nat) (s : State) :
    (2000 ≤ i ∧ execRdsmp i s = .next (withOut s [.resp (.rej .range)])) ∨
    (i < 2000 ∧ s.code = .ok ∧ execRdsmp i s = .next (withOut s [.resp (.ack ((sample s i).setWidth 32))])) ∨
    (i < 2000 ∧ s.code ≠ .ok ∧ execRdsmp i s = .next (withOut s [.resp (.rej .noData)])) := by
  unfold execRdsmp
  rw [nSamples_eq]
  split
  · exact .inl ⟨‹_›, rfl⟩
  · split
    · exact .inr (.inl ⟨by omega, ‹_›, rfl⟩)
    · exact .inr (.inr ⟨by omega, ‹_›, rfl⟩)

/-- Everything TXACC can do. -/
theorem execTxacc_cases (s : State) :
    (s.phase = .tx ∧ s.txIdx.toNat < 10 ∧
      execTxacc s = .next (withOut (advanceTx s) [.sent (cmdByte s s.txIdx.toNat)])) ∨
    (s.phase = .tx ∧ 10 ≤ s.txIdx.toNat ∧ execTxacc s = .fault .cmdIndex) ∨
    (s.phase ≠ .tx ∧ execTxacc s = .next (withOut s [])) := by
  unfold execTxacc
  rw [cmdSize_eq]
  split
  · split
    · exact .inl ⟨‹_›, ‹_›, rfl⟩
    · exact .inr (.inl ⟨‹_›, by omega, rfl⟩)
  · exact .inr (.inr ⟨‹_›, rfl⟩)

/-- Everything TXERR can do. -/
theorem execTxerr_cases (s : State) :
    (s.phase = .tx ∧ execTxerr s = .next (finish s .transportError)) ∨
    (s.phase ≠ .tx ∧ execTxerr s = .next (withOut s [])) := by
  unfold execTxerr
  split
  · exact .inl ⟨‹_›, rfl⟩
  · exact .inr ⟨‹_›, rfl⟩

/-- Everything RXB can do. -/
theorem execRxb_cases (b : Byte) (s : State) :
    (s.phase = .rx ∧ s.rxCnt.toNat = 4002 ∧ execRxb b s = .next (completeFrame (storeFrameByte s b))) ∨
    (s.phase = .rx ∧ s.rxCnt.toNat < 4002 ∧ execRxb b s = .next (withOut (storeFrameByte s b) [])) ∨
    (s.phase = .rx ∧ 4003 ≤ s.rxCnt.toNat ∧ execRxb b s = .fault .frameIndex) ∨
    (s.phase ≠ .rx ∧ execRxb b s = .next (withOut s [])) := by
  unfold execRxb
  simp only [frameLen_eq]
  split
  · split
    · split
      · exact .inl ⟨‹_›, by omega, rfl⟩
      · exact .inr (.inl ⟨‹_›, by omega, rfl⟩)
    · exact .inr (.inr (.inl ⟨‹_›, by omega, rfl⟩))
  · exact .inr (.inr (.inr ⟨‹_›, rfl⟩))

/-- Everything RXTO can do. -/
theorem execRxto_cases (s : State) :
    (s.phase = .rx ∧ execRxto s = .next (finish s .shortRead)) ∨
    (s.phase ≠ .rx ∧ execRxto s = .next (withOut s [])) := by
  unfold execRxto
  split
  · exact .inl ⟨‹_›, rfl⟩
  · exact .inr ⟨‹_›, rfl⟩

/-- complete_frame is finish with one of two codes. -/
theorem completeFrame_cases (s : State) :
    (markersPass s = true ∧ completeFrame s = finish s .ok) ∨
    (markersPass s = false ∧ completeFrame s = finish s .framingError) := by
  unfold completeFrame
  cases h : markersPass s
  · exact .inr ⟨rfl, rfl⟩
  · exact .inl ⟨rfl, rfl⟩

theorem storeFrameByte_rxCnt_toNat {s : State} (b : Byte) (h : s.rxCnt.toNat < 4003) :
    (storeFrameByte s b).rxCnt.toNat = s.rxCnt.toNat + 1 := by
  simp only [storeFrameByte_rxCnt, BitVec.toNat_add, BitVec.toNat_ofNat]
  omega

theorem advanceTx_txIdx_toNat {s : State} (h : s.txIdx.toNat < 10) :
    (advanceTx s).txIdx.toNat = s.txIdx.toNat + 1 := by
  simp only [advanceTx_txIdx, BitVec.toNat_add, BitVec.toNat_ofNat]
  omega

/-! ## Taking an event -/

/-- Everything fetch can answer. -/
theorem fetch_cases (s : State) :
    (paramsLegal s.params = false ∧ fetch s = .refuse .illegalConfig) ∨
    (paramsLegal s.params = true ∧ s.inbox = [] ∧ fetch s = .settled (withOut s [])) ∨
    (paramsLegal s.params = true ∧ ∃ es, s.inbox = .reset :: es ∧
      fetch s = .settled (resetBlock (withInbox s es))) ∨
    (paramsLegal s.params = true ∧ ∃ w es, s.inbox = .word w :: es ∧
      ((∃ i, decode w = .ok i ∧ fetch s = .run i (withInbox s es)) ∨
       (∃ r, decode w = .error r ∧ fetch s = .settled (withOut (withInbox s es) [.resp (.rej .illegal)])))) := by
  unfold fetch
  cases hp : paramsLegal s.params
  · exact .inl ⟨rfl, rfl⟩
  · rw [if_pos rfl]
    cases hi : s.inbox with
    | nil => exact .inr (.inl ⟨rfl, rfl, rfl⟩)
    | cons e es =>
      cases e with
      | reset => exact .inr (.inr (.inl ⟨rfl, es, rfl, rfl⟩))
      | word w =>
        refine .inr (.inr (.inr ⟨rfl, w, es, rfl, ?_⟩))
        cases hd : decode w with
        | ok i => exact .inl ⟨i, rfl, by simp [hd]⟩
        | error r => exact .inr ⟨r, rfl, by simp [hd]⟩

end Sys2Proof.Machine
end

