-- ==== Sys2Proof/Laws/PerInstr.lean ====
section
/-! SUPPORT. Statements made per instruction, about the instruction as syntax. -/

/-- The word of a host operation is legal by the formula of 30_encoding.md R49 and carries the operation's code; the
word of a transport event carries its kind (30_encoding.md R52). -/
def Sys2Proof.Laws.EncodedWordLegal.Statement (i : Sys2Proof.Instr) : Prop :=
  match Sys2Proof.encode i with
  | .host w => ∃ op, 1 ≤ op ∧ op ≤ 0xB ∧ (Sys2Proof.opOf w).toNat = op ∧
      (op = 0xB ∨ Sys2Proof.idxOf w = 0#11) ∧ (op < 0xA ∨ Sys2Proof.chOf w = 0#1) ∧ Sys2Proof.Safety.isHostOp i = true
  | .transport e => (Sys2Proof.kindOf e = 2#2 ∨ Sys2Proof.dataOf e = 0#8) ∧ Sys2Proof.Safety.isHostOp i = false

theorem Sys2Proof.Laws.EncodedWordLegal.inctb (c : Sys2Proof.Channel) :
    Sys2Proof.Laws.EncodedWordLegal.Statement (.inctb c) :=
  ⟨1, by decide, by decide, by simp, .inr (by simp), .inl (by decide), rfl⟩

theorem Sys2Proof.Laws.EncodedWordLegal.dectb (c : Sys2Proof.Channel) :
    Sys2Proof.Laws.EncodedWordLegal.Statement (.dectb c) :=
  ⟨2, by decide, by decide, by simp, .inr (by simp), .inl (by decide), rfl⟩

theorem Sys2Proof.Laws.EncodedWordLegal.gettb (c : Sys2Proof.Channel) :
    Sys2Proof.Laws.EncodedWordLegal.Statement (.gettb c) :=
  ⟨3, by decide, by decide, by simp, .inr (by simp), .inl (by decide), rfl⟩

theorem Sys2Proof.Laws.EncodedWordLegal.tgledge (c : Sys2Proof.Channel) :
    Sys2Proof.Laws.EncodedWordLegal.Statement (.tgledge c) :=
  ⟨4, by decide, by decide, by simp, .inr (by simp), .inl (by decide), rfl⟩

theorem Sys2Proof.Laws.EncodedWordLegal.inctrig (c : Sys2Proof.Channel) :
    Sys2Proof.Laws.EncodedWordLegal.Statement (.inctrig c) :=
  ⟨5, by decide, by decide, by simp, .inr (by simp), .inl (by decide), rfl⟩

theorem Sys2Proof.Laws.EncodedWordLegal.dectrig (c : Sys2Proof.Channel) :
    Sys2Proof.Laws.EncodedWordLegal.Statement (.dectrig c) :=
  ⟨6, by decide, by decide, by simp, .inr (by simp), .inl (by decide), rfl⟩

theorem Sys2Proof.Laws.EncodedWordLegal.gettrig (c : Sys2Proof.Channel) :
    Sys2Proof.Laws.EncodedWordLegal.Statement (.gettrig c) :=
  ⟨7, by decide, by decide, by simp, .inr (by simp), .inl (by decide), rfl⟩

theorem Sys2Proof.Laws.EncodedWordLegal.getedge (c : Sys2Proof.Channel) :
    Sys2Proof.Laws.EncodedWordLegal.Statement (.getedge c) :=
  ⟨8, by decide, by decide, by simp, .inr (by simp), .inl (by decide), rfl⟩

theorem Sys2Proof.Laws.EncodedWordLegal.cap (c : Sys2Proof.Channel) :
    Sys2Proof.Laws.EncodedWordLegal.Statement (.cap c) :=
  ⟨9, by decide, by decide, by simp, .inr (by simp), .inl (by decide), rfl⟩

theorem Sys2Proof.Laws.EncodedWordLegal.rdst : Sys2Proof.Laws.EncodedWordLegal.Statement .rdst :=
  ⟨10, by decide, by decide, by simp, .inr (by simp), .inr (by simp), rfl⟩

theorem Sys2Proof.Laws.EncodedWordLegal.rdsmp (i : Nat) : Sys2Proof.Laws.EncodedWordLegal.Statement (.rdsmp i) :=
  ⟨11, by decide, by decide, by simp, .inl rfl, .inr (by simp), rfl⟩

theorem Sys2Proof.Laws.EncodedWordLegal.txacc : Sys2Proof.Laws.EncodedWordLegal.Statement .txacc :=
  ⟨.inr (by simp), rfl⟩

theorem Sys2Proof.Laws.EncodedWordLegal.txerr : Sys2Proof.Laws.EncodedWordLegal.Statement .txerr :=
  ⟨.inr (by simp), rfl⟩

theorem Sys2Proof.Laws.EncodedWordLegal.rxb (b : Sys2Proof.Byte) :
    Sys2Proof.Laws.EncodedWordLegal.Statement (.rxb b) :=
  ⟨.inl (by simp), rfl⟩

theorem Sys2Proof.Laws.EncodedWordLegal.rxto : Sys2Proof.Laws.EncodedWordLegal.Statement .rxto :=
  ⟨.inr (by simp), rfl⟩
end

