-- ==== Sys2Proof/Laws/Step.lean ====
section
/-! SUPPORT. Everything an instruction can do, and everything a step can do, said once: proofs over all instructions
go by cases on Effect instead of unfolding exec. -/

namespace Sys2Proof.Machine

open Sys2Proof.Safety

/-- The next states of an instruction. -/
inductive Effect (s : State) : Instr → State → Prop where
  /-- INCTB and DECTB write one TB. -/
  | tb (c : Channel) (i : Instr) (v : BitVec 3) (hi : i = .inctb c ∨ i = .dectb c)
      (hv : (settings s c).tb.toNat ≤ 6 → v.toNat ≤ 6) :
      Effect s i (withOut (setTb s c v) [.resp (.ack 0#32)])
  /-- TGLEDGE writes one EDGE. -/
  | edge (c : Channel) : Effect s (.tgledge c) (withOut (setEdge s c (toggleEdge (settings s c).edge))
      [.resp (.ack 0#32)])
  /-- INCTRIG and DECTRIG write one TRIG. -/
  | trig (c : Channel) (i : Instr) (v : BitVec 13)
      (hi : (i = .inctrig c ∧ v = incTrig s.params.trigPolicy (settings s c).trig) ∨
        (i = .dectrig c ∧ v = decTrig s.params.trigPolicy (settings s c).trig)) :
      Effect s i (withOut (setTrig s c v) [.resp (.ack 0#32)])
  /-- The reads answer a value. -/
  | read (i : Instr) (v : Value) (hi : isHostRead i = true) : Effect s i (withOut s [.resp (.ack v)])
  /-- CAP while a capture is in flight. -/
  | busy (c : Channel) (hp : s.phase ≠ .idle) : Effect s (.cap c) (withOut s [.resp (.rej .busy)])
  /-- RDSMP out of range. -/
  | range (k : Nat) (hk : 2000 ≤ k) : Effect s (.rdsmp k) (withOut s [.resp (.rej .range)])
  /-- RDSMP without a successful capture. -/
  | noData (k : Nat) (hk : k < 2000) (hc : s.code ≠ .ok) : Effect s (.rdsmp k) (withOut s [.resp (.rej .noData)])
  /-- CAP accepted. -/
  | cap (c : Channel) (hp : s.phase = .idle) :
      Effect s (.cap c) (withOut (latchCapture s c (build s c)) [.resp (.ack 0#32)])
  /-- A transport event out of its phase. -/
  | ignored (i : Instr) (p : Phase) (hi : meaningPhase i = some p) (hp : s.phase ≠ p) : Effect s i (withOut s [])
  /-- TXACC in TX. -/
  | txacc (hp : s.phase = .tx) (hx : s.txIdx.toNat < 10) :
      Effect s .txacc (withOut (advanceTx s) [.sent (cmdByte s s.txIdx.toNat)])
  /-- TXERR in TX. -/
  | txerr (hp : s.phase = .tx) : Effect s .txerr (finish s .transportError)
  /-- RXB in RX before the last byte. -/
  | rxb (b : Byte) (hp : s.phase = .rx) (hx : s.rxCnt.toNat < 4002) :
      Effect s (.rxb b) (withOut (storeFrameByte s b) [])
  /-- RXB in RX with the last byte. -/
  | rxbLast (b : Byte) (hp : s.phase = .rx) (hx : s.rxCnt.toNat = 4002) (code : Code)
      (hc : (code = .ok ∧ markersPass (storeFrameByte s b) = true) ∨
        (code = .framingError ∧ markersPass (storeFrameByte s b) = false)) :
      Effect s (.rxb b) (finish (storeFrameByte s b) code)
  /-- RXTO in RX. -/
  | rxto (hp : s.phase = .rx) : Effect s .rxto (finish s .shortRead)

/-- Everything an instruction can do. -/
theorem exec_effect {i : Instr} {s t : State} (h : exec i s = .next t) : Effect s i t := by
  cases i with
  | inctb c =>
    obtain rfl := respond_next h
    exact .tb c _ _ (.inl rfl) (by rw [incTb_toNat]; split <;> omega)
  | dectb c =>
    obtain rfl := respond_next h
    exact .tb c _ _ (.inr rfl) (by rw [decTb_toNat]; omega)
  | gettb c => obtain rfl := respond_next h; exact .read _ _ rfl
  | tgledge c => obtain rfl := respond_next h; exact .edge c
  | inctrig c => obtain rfl := respond_next h; exact .trig c _ _ (.inl ⟨rfl, rfl⟩)
  | dectrig c => obtain rfl := respond_next h; exact .trig c _ _ (.inr ⟨rfl, rfl⟩)
  | gettrig c => obtain rfl := respond_next h; exact .read _ _ rfl
  | getedge c => obtain rfl := respond_next h; exact .read _ _ rfl
  | cap c =>
    rcases execCap_cases c s with ⟨hp, e⟩ | ⟨hp, e⟩
    · obtain rfl := Host.Outcome.next.inj (e.symm.trans h); exact .cap c hp
    · obtain rfl := Host.Outcome.next.inj (e.symm.trans h); exact .busy c hp
  | rdst => obtain rfl := respond_next h; exact .read _ _ rfl
  | rdsmp k =>
    rcases execRdsmp_cases k s with ⟨hk, e⟩ | ⟨hk, hc, e⟩ | ⟨hk, hc, e⟩
    · obtain rfl := Host.Outcome.next.inj (e.symm.trans h); exact .range k hk
    · obtain rfl := Host.Outcome.next.inj (e.symm.trans h); exact .read _ _ rfl
    · obtain rfl := Host.Outcome.next.inj (e.symm.trans h); exact .noData k hk hc
  | txacc =>
    rcases execTxacc_cases s with ⟨hp, hx, e⟩ | ⟨hp, hx, e⟩ | ⟨hp, e⟩
    · obtain rfl := Host.Outcome.next.inj (e.symm.trans h); exact .txacc hp hx
    · exact absurd (e.symm.trans h) (by simp)
    · obtain rfl := Host.Outcome.next.inj (e.symm.trans h); exact .ignored _ _ rfl hp
  | txerr =>
    rcases execTxerr_cases s with ⟨hp, e⟩ | ⟨hp, e⟩
    · obtain rfl := Host.Outcome.next.inj (e.symm.trans h); exact .txerr hp
    · obtain rfl := Host.Outcome.next.inj (e.symm.trans h); exact .ignored _ _ rfl hp
  | rxb b =>
    rcases execRxb_cases b s with ⟨hp, hx, e⟩ | ⟨hp, hx, e⟩ | ⟨hp, hx, e⟩ | ⟨hp, e⟩
    · obtain rfl := Host.Outcome.next.inj (e.symm.trans h)
      rcases completeFrame_cases (storeFrameByte s b) with ⟨hm, hc⟩ | ⟨hm, hc⟩
      · rw [hc]; exact .rxbLast b hp hx _ (.inl ⟨rfl, hm⟩)
      · rw [hc]; exact .rxbLast b hp hx _ (.inr ⟨rfl, hm⟩)
    · obtain rfl := Host.Outcome.next.inj (e.symm.trans h); exact .rxb b hp hx
    · exact absurd (e.symm.trans h) (by simp)
    · obtain rfl := Host.Outcome.next.inj (e.symm.trans h); exact .ignored _ _ rfl hp
  | rxto =>
    rcases execRxto_cases s with ⟨hp, e⟩ | ⟨hp, e⟩
    · obtain rfl := Host.Outcome.next.inj (e.symm.trans h); exact .rxto hp
    · obtain rfl := Host.Outcome.next.inj (e.symm.trans h); exact .ignored _ _ rfl hp

/-- An instruction answers a next state unless it is TXACC or RXB at an index its buffer does not have. -/
theorem exec_next {i : Instr} {s : State} (hx : i = .txacc → s.phase = .tx → s.txIdx.toNat < 10)
    (hr : ∀ b, i = .rxb b → s.phase = .rx → s.rxCnt.toNat < 4003) : ∃ t, exec i s = .next t := by
  cases i with
  | cap c => rcases execCap_cases c s with ⟨_, e⟩ | ⟨_, e⟩ <;> exact ⟨_, e⟩
  | rdsmp k => rcases execRdsmp_cases k s with ⟨_, e⟩ | ⟨_, _, e⟩ | ⟨_, _, e⟩ <;> exact ⟨_, e⟩
  | txacc =>
    rcases execTxacc_cases s with ⟨_, _, e⟩ | ⟨hp, h, _⟩ | ⟨_, e⟩
    · exact ⟨_, e⟩
    · have := hx rfl hp
      omega
    · exact ⟨_, e⟩
  | txerr => rcases execTxerr_cases s with ⟨_, e⟩ | ⟨_, e⟩ <;> exact ⟨_, e⟩
  | rxb b =>
    rcases execRxb_cases b s with ⟨_, _, e⟩ | ⟨_, _, e⟩ | ⟨hp, h, _⟩ | ⟨_, e⟩
    · exact ⟨_, e⟩
    · exact ⟨_, e⟩
    · have := hr b rfl hp
      omega
    · exact ⟨_, e⟩
  | rxto => rcases execRxto_cases s with ⟨_, e⟩ | ⟨_, e⟩ <;> exact ⟨_, e⟩
  | inctb c => exact ⟨_, rfl⟩
  | dectb c => exact ⟨_, rfl⟩
  | gettb c => exact ⟨_, rfl⟩
  | tgledge c => exact ⟨_, rfl⟩
  | inctrig c => exact ⟨_, rfl⟩
  | dectrig c => exact ⟨_, rfl⟩
  | gettrig c => exact ⟨_, rfl⟩
  | getedge c => exact ⟨_, rfl⟩
  | rdst => exact ⟨_, rfl⟩

/-- Everything a step can do. -/
theorem step_cases {s t : State} (h : step s = .next t) :
    paramsLegal s.params = true ∧
    ((s.inbox = [] ∧ t = withOut s []) ∨
     (∃ es, s.inbox = .reset :: es ∧ t = resetBlock (withInbox s es)) ∨
     (∃ w es r, s.inbox = .word w :: es ∧ decode w = .error r ∧
       t = withOut (withInbox s es) [.resp (.rej .illegal)]) ∨
     (∃ w es i, s.inbox = .word w :: es ∧ decode w = .ok i ∧ exec i (withInbox s es) = .next t)) := by
  unfold step at h
  rcases fetch_cases s with ⟨_, e⟩ | ⟨hp, hi, e⟩ | ⟨hp, es, hi, e⟩ | ⟨hp, w, es, hi, ⟨i, hd, e⟩ | ⟨r, hd, e⟩⟩
  · rw [e] at h
    exact absurd h (by simp)
  · rw [e] at h
    exact ⟨hp, .inl ⟨hi, (Host.Outcome.next.inj h).symm⟩⟩
  · rw [e] at h
    exact ⟨hp, .inr (.inl ⟨es, hi, (Host.Outcome.next.inj h).symm⟩)⟩
  · rw [e] at h
    exact ⟨hp, .inr (.inr (.inr ⟨w, es, i, hi, hd, h⟩))⟩
  · rw [e] at h
    exact ⟨hp, .inr (.inr (.inl ⟨w, es, r, hi, hd, (Host.Outcome.next.inj h).symm⟩))⟩

/-- No instruction writes the parameters or the events still to come. -/
theorem exec_env {i : Instr} {s t : State} (h : exec i s = .next t) : t.params = s.params ∧ t.inbox = s.inbox := by
  cases exec_effect h <;> simp [setTb, setTrig, setEdge]

end Sys2Proof.Machine
end

