-- ==== Sys2Proof/Tests/Slice0.lean ====
section
/-! SUPPORT. Tests of one step each, with results from 95_test_vectors.md and the rules' own examples, and for every
statement with hypotheses a concrete state and operands that meet them. -/

namespace Sys2Proof.Tests

open Sys2Proof.Machine Sys2Proof.Safety

/-! ## Small states -/

/-- The next state, if there is one. -/
def next? (o : Host.Outcome State Fault Refusal) : Option State :=
  match o with
  | .next t => some t
  | .fault _ => none
  | .refused _ => none

/-- The outputs of an instruction run in `s`. -/
def outOf (i : Instr) (s : State) : Option (List Output) := (next? (exec i s)).map (·.out)

/-- Reset state with channel 1's settings as given. -/
def withCh1 (tb : BitVec 3) (trig : BitVec 13) (edge : Edge) : State :=
  { State.reset with ch1 := { tb := tb, trig := trig, edge := edge } }

/-- The state under TRIG_POLICY = LITERAL. -/
def literal (s : State) : State := { s with params := { s.params with trigPolicy := .literal } }

/-- The state under LEGACY_START_CHECK = true. -/
def legacy (s : State) : State := { s with params := { s.params with legacyStartCheck := true } }

/-- A capture of channel 1 being sent, `k` bytes taken. -/
def sending (k : BitVec 4) : State :=
  { State.reset with
    phase := .tx, code := .pending, cmdBuf := memFrom 0 (build State.reset .ch1), cmdLen := 10#4, txIdx := k }

/-- A capture of channel 1 being received, `n` bytes stored, of which FB lists `m`. -/
def receiving (n : BitVec 13) (m : Mem) : State :=
  { sending 10#4 with phase := .rx, rxCnt := n, fb := m }

/-- A capture that has ended. -/
def ended (code : Code) (n : BitVec 13) (m : Mem) : State :=
  { sending 10#4 with phase := .idle, code := code, rxCnt := n, fb := m }

/-- The start and mode markers. -/
def startMarks : Mem := [(0, 0x53#8), (1, 0x4D#8)]

/-- Frame Z of 95_test_vectors.md. -/
def frameZ : List Byte := 0x53#8 :: 0x4D#8 :: (List.replicate 4000 0x00#8 ++ [0x45#8])

/-! ## Well-formedness: the one check refuses an ill-formed term -/

theorem test_wellFormed_rdsmp_2048 : wellFormed (.rdsmp 2048) = false := by decide
theorem test_wellFormed_rdsmp_2047 : wellFormed (.rdsmp 2047) = true := by decide

/-! ## Decoding: words written out from 30_encoding.md R45, R46, R52 -/

theorem test_decode_settings :
    decode (.host 0b0000000000000001#16) = .ok (.inctb .ch1) ∧ decode (.host 0b0000000000010010#16) = .ok (.dectb .ch2) ∧
    decode (.host 0b0000000000000011#16) = .ok (.gettb .ch1) ∧ decode (.host 0b0000000000010100#16) = .ok (.tgledge .ch2) ∧
    decode (.host 0b0000000000000101#16) = .ok (.inctrig .ch1) ∧
    decode (.host 0b0000000000010110#16) = .ok (.dectrig .ch2) ∧
    decode (.host 0b0000000000000111#16) = .ok (.gettrig .ch1) ∧
    decode (.host 0b0000000000011000#16) = .ok (.getedge .ch2) := by decide

theorem test_decode_capture :
    decode (.host 0b0000000000011001#16) = .ok (.cap .ch2) ∧ decode (.host 0b0000000000001010#16) = .ok .rdst ∧
    decode (.host 0b1111100111101011#16) = .ok (.rdsmp 1999) ∧ decode (.host 0b0001000000001011#16) = .ok (.rdsmp 128) := by
  decide

theorem test_decode_transport :
    decode (.transport 0b0011111111#10) = .ok .txacc ∧ decode (.transport 0b0110101010#10) = .ok .txerr ∧
    decode (.transport 0b1001010011#10) = .ok (.rxb 0x53#8) ∧ decode (.transport 0b1100000001#10) = .ok .rxto := by decide

/-- Section 2.2 of 95_test_vectors.md. -/
theorem test_decode_illegal :
    decode (.host 0x0000#16) = .error .reservedOp ∧ decode (.host 0x001C#16) = .error .reservedOp ∧
    decode (.host 0x0021#16) = .error .idxNotZero ∧ decode (.host 0x002A#16) = .error .idxNotZero ∧
    decode (.host 0x001A#16) = .error .chNotZero ∧ decode (.host 0x001B#16) = .error .chNotZero := by decide

theorem test_encode_examples :
    encode (.cap .ch2) = .host 0x0019#16 ∧ encode (.rdsmp 300) = .host 0x258B#16 ∧
    encode (.rxb 0x53#8) = .transport 0x253#10 ∧ encode .rxto = .transport 0x300#10 := by decide

theorem test_decodeTableWord :
    decodeTableWord 16 0x0011 = some (.inctb .ch2) ∧ decodeTableWord 16 0x000B = some (.rdsmp 0) ∧
    decodeTableWord 10 0x000 = some .txacc ∧ decodeTableWord 16 0x000 = some .txacc ∧
    decodeTableWord 16 0x100 = some .txerr ∧ decodeTableWord 16 0x200 = some (.rxb 0x00#8) ∧
    decodeTableWord 16 0x300 = some .rxto ∧ decodeTableWord 16 0xFFFF = none := by decide

theorem test_step_fetchWord :
    (next? (step (State.reset.withFetchWord 16 0x0019))).map (fun t => (t.phase, t.lch, t.inbox)) =
      some (.tx, .ch2, []) := by decide

theorem test_step_illegal_word :
    (next? (step (withInbox State.reset [.word (.host 0x0021#16)]))).map (fun t => (t.out, t.ch1)) =
      some ([.resp (.rej .illegal)], State.reset.ch1) := by decide

/-! ## Settings operations: section 2.1 of 95_test_vectors.md -/

theorem test_inctb_5 :
    (next? (exec (.inctb .ch1) (withCh1 5#3 2048#13 .rising))).map (fun t => (t.ch1.tb, t.ch2.tb)) = some (6#3, 3#3) := by
  decide
theorem test_inctb_at_bound :
    (next? (exec (.inctb .ch1) (withCh1 6#3 2048#13 .rising))).map (·.ch1.tb) = some 6#3 := by decide
theorem test_dectb_at_bound :
    (next? (exec (.dectb .ch1) (withCh1 0#3 2048#13 .rising))).map (·.ch1.tb) = some 0#3 := by decide
theorem test_dectb_1 : (next? (exec (.dectb .ch1) (withCh1 1#3 2048#13 .rising))).map (·.ch1.tb) = some 0#3 := by decide
theorem test_gettb_reset : outOf (.gettb .ch2) State.reset = some [.resp (.ack 3#32)] := by decide
theorem test_tgledge :
    (next? (exec (.tgledge .ch2) State.reset)).map (fun t => (t.ch1.edge, t.ch2.edge)) = some (.rising, .falling) := by
  decide
theorem test_inctrig_saturate :
    (next? (exec (.inctrig .ch1) (withCh1 3#3 3840#13 .rising))).map (·.ch1.trig) = some 3968#13 := by decide
theorem test_inctrig_literal :
    (next? (exec (.inctrig .ch1) (literal (withCh1 3#3 3840#13 .rising)))).map (·.ch1.trig) = some 4096#13 := by decide
theorem test_dectrig_saturate :
    (next? (exec (.dectrig .ch1) (withCh1 3#3 256#13 .rising))).map (·.ch1.trig) = some 128#13 := by decide
theorem test_dectrig_literal :
    (next? (exec (.dectrig .ch1) (literal (withCh1 3#3 256#13 .rising)))).map (·.ch1.trig) = some 0#13 := by decide
theorem test_gettrig_reset : outOf (.gettrig .ch1) State.reset = some [.resp (.ack 2048#32)] := by decide
theorem test_getedge_reset : outOf (.getedge .ch2) State.reset = some [.resp (.ack 1#32)] := by decide

/-! ## Captures: sections 2.3 to 2.7 of 95_test_vectors.md -/

/-- ST3120481E, the length-9 form ST319991E, and the LITERAL row ST3101E. -/
theorem test_build :
    build (withCh1 3#3 2048#13 .rising) .ch1 =
      [0x53#8, 0x54#8, 0x33#8, 0x31#8, 0x32#8, 0x30#8, 0x34#8, 0x38#8, 0x31#8, 0x45#8] ∧
    build (withCh1 3#3 999#13 .rising) .ch1 =
      [0x53#8, 0x54#8, 0x33#8, 0x31#8, 0x39#8, 0x39#8, 0x39#8, 0x31#8, 0x45#8] ∧
    build (withCh1 3#3 0#13 .rising) .ch1 = [0x53#8, 0x54#8, 0x33#8, 0x31#8, 0x30#8, 0x31#8, 0x45#8] := by decide

theorem test_cap_ch2 :
    (next? (exec (.cap .ch2) State.reset)).map (fun t => (status t, t.cmdLen, cmdByte t 3, txData t)) =
      some (0x00020009#32, 10#4, 0x32#8, some 0x53#8) := by decide
theorem test_cap_busy : outOf (.cap .ch2) (sending 0#4) = some [.resp (.rej .busy)] := by decide
theorem test_rdst_receiving :
    outOf .rdst { receiving 4002#13 [] with lch := .ch2 } = some [.resp (.ack 0x0004FA29#32)] := by decide
theorem test_rdst_ok : outOf .rdst (ended .ok 4003#13 []) = some [.resp (.ack 0x0000FA32#32)] := by decide
theorem test_rdsmp_0 :
    outOf (.rdsmp 0) (ended .ok 4003#13 [(2, 0x12#8), (3, 0x34#8)]) = some [.resp (.ack 2578#32)] := by decide
theorem test_rdsmp_range_first : outOf (.rdsmp 2000) State.reset = some [.resp (.rej .range)] := by decide
theorem test_unpack :
    unpack 0xFF#8 0xFF#8 = 4095#12 ∧ unpack 0x80#8 0xE0#8 = 0#12 ∧ unpack 0x80#8 0x3F#8 = 3968#12 ∧
    unpack 0xAB#8 0xCD#8 = 1707#12 ∧ unpack 0x00#8 0x01#8 = 128#12 := by decide

theorem test_txacc_last :
    (next? (exec .txacc (sending 9#4))).map (fun t => (t.out, t.txIdx, t.phase)) = some ([.sent 0x45#8], 10#4, .rx) := by
  decide
theorem test_txacc_receiving :
    (next? (exec .txacc (receiving 0#13 []))).map (fun t => (t.out, t.txIdx, t.phase)) = some ([], 10#4, .rx) := by decide
theorem test_txerr :
    (next? (exec .txerr (sending 3#4))).map (fun t => (t.out, t.txIdx, status t)) =
      some ([.done .ch1 .transportError], 3#4, 0x00000005#32) := by decide
theorem test_rxb_last_ok :
    (next? (exec (.rxb 0x45#8) (receiving 4002#13 startMarks))).map (fun t => (t.out, status t)) =
      some ([.done .ch1 .ok], 0x0000FA32#32) := by decide
theorem test_rxb_last_bad_start :
    (next? (exec (.rxb 0x45#8) (receiving 4002#13 [(0, 0x00#8), (1, 0x4D#8)]))).map (·.code) = some .framingError ∧
    (next? (exec (.rxb 0x45#8) (legacy (receiving 4002#13 [(0, 0xD3#8), (1, 0x4D#8)])))).map (·.code) = some .ok := by
  decide
theorem test_rxto :
    (next? (exec .rxto (receiving 4002#13 []))).map (fun t => (t.out, status t)) =
      some ([.done .ch1 .shortRead], 0x0000FA23#32) := by decide
theorem test_rxto_idle : outOf .rxto State.reset = some [] := by decide
theorem test_reset_while_sending :
    (next? (step { sending 3#4 with inbox := [.reset] })).map (fun t => (t.out, t.phase, t.code)) =
      some ([], .idle, .none) := by decide
theorem test_respWord :
    respWord (.ack 0xFFFFFFFF#32) = 0x0FFFFFFFF#33 ∧ respWord (.rej .range) = 0x100000004#33 := by decide

/-! ## Invariants in concrete states -/

theorem inv_reset_params : paramsLegal State.reset.params = true := by decide
theorem inv_reset_tb (c : Channel) : (settings State.reset c).tb.toNat ≤ 6 := by cases c <;> decide
theorem inv_reset_trig (c : Channel) : TrigInRange State.reset.params (settings State.reset c).trig := by
  cases c <;> exact ⟨by decide, by decide⟩
theorem reset_cmd_wf : Memory.wf 10 (memFrom 0 (build State.reset .ch1)) = true := by decide

theorem inv_sending (k : BitVec 4) (hk : k.toNat < 10) : Inv (sending k) where
  params_legal := inv_reset_params
  tb_range := inv_reset_tb
  trig_range := inv_reset_trig
  busy_iff_pending := by simp [sending]
  tx_counts := fun _ => ⟨hk, rfl⟩
  rx_counts := by simp [sending]
  ok_count := by simp [sending]
  ok_frame := by simp [sending]
  ok_markers := by simp [sending]
  short_count := by simp [sending]
  framing_count := by simp [sending]
  transport_count := by simp [sending]
  len_before_cap := by simp [sending]
  len_after_cap := fun _ => .inr rfl
  idx_le_len := Nat.le_of_lt hk
  cnt_le_frame := Nat.zero_le 4003
  rx_frame := by simp [sending]
  cmd_latched := by
    have h : ∀ k, k < 10 → (memRead (memFrom 0 (build State.reset .ch1)) k).isSome = true := by decide
    exact h
  cmd_wf := reset_cmd_wf
  fb_wf := rfl

theorem inv_receiving : Inv (receiving 0#13 []) :=
  { inv_sending 0#4 (by decide) with
    busy_iff_pending := by simp [receiving, sending]
    tx_counts := by simp [receiving]
    rx_counts := fun _ => ⟨rfl, by decide⟩
    idx_le_len := by decide
    cnt_le_frame := by decide
    rx_frame := by simp [receiving]
    ok_count := by simp [receiving, sending]
    ok_frame := by simp [receiving, sending]
    ok_markers := by simp [receiving, sending]
    short_count := by simp [receiving, sending]
    framing_count := by simp [receiving, sending]
    transport_count := by simp [receiving, sending] }

theorem inv_ended (code : Code) (n : BitVec 13) (m : Mem) (h0 : code ≠ .none) (h1 : code ≠ .pending)
    (hm : Memory.wf 4003 m = true) (hn : n.toNat ≤ 4003) (hs : code = .shortRead → n.toNat < 4003)
    (hf : code = .framingError → n.toNat = 4003) (ht : code ≠ .transportError)
    (ho : code = .ok → n.toNat = 4003 ∧ (∀ a, a < 4003 → (memRead m a).isSome = true) ∧
      markersPass (ended code n m) = true) : Inv (ended code n m) :=
  { inv_sending 0#4 (by decide) with
    busy_iff_pending := by simp [ended, h1]
    tx_counts := by simp [ended]
    rx_counts := by simp [ended]
    idx_le_len := Nat.le_refl 10
    cnt_le_frame := hn
    rx_frame := by simp [ended]
    ok_count := fun h => (ho h).1
    ok_frame := fun h => (ho h).2.1
    ok_markers := fun h => (ho h).2.2
    short_count := hs
    framing_count := hf
    transport_count := fun h => absurd h ht
    len_before_cap := by simp [ended, h0, sending]
    len_after_cap := fun _ => .inr rfl
    fb_wf := hm }

theorem inv_transportError : Inv { ended .transportError 0#13 [] with txIdx := 3#4 } :=
  { inv_sending 0#4 (by decide) with
    busy_iff_pending := by simp [ended]
    tx_counts := by simp [ended]
    rx_counts := by simp [ended]
    idx_le_len := by decide
    cnt_le_frame := by decide
    rx_frame := by simp [ended]
    ok_count := by simp [ended]
    ok_frame := by simp [ended]
    ok_markers := by simp [ended]
    short_count := by simp [ended]
    framing_count := by simp [ended]
    transport_count := fun _ => ⟨rfl, by decide⟩
    len_before_cap := by simp [ended, sending]
    len_after_cap := fun _ => .inr rfl }

theorem frameZ_length : frameZ.length = 4003 := by
  simp only [frameZ, List.length_cons, List.length_append, List.length_replicate, List.length_nil]

theorem frameZ_last : frameZ[4002]? = some 0x45#8 := by
  simp only [frameZ, List.getElem?_cons_succ]
  rw [List.getElem?_append_right (by rw [List.length_replicate]), List.length_replicate, Nat.sub_self,
    List.getElem?_cons_zero]

theorem frameZ_listed (a : Nat) (h : a < 4003) : (memRead (memFrom 0 frameZ) a).isSome = true := by
  have := frameZ_length
  simp [memRead_memFrom]
  omega

theorem inv_okFrame : Inv (ended .ok 4003#13 (memFrom 0 frameZ)) := by
  refine inv_ended .ok 4003#13 _ (by decide) (by decide) (wf_memFrom _ (by rw [frameZ_length])) (by decide)
    (by decide) (by decide) (by decide) (fun _ => ⟨rfl, frameZ_listed, ?_⟩)
  have hp : (ended .ok 4003#13 (memFrom 0 frameZ)).params.legacyStartCheck = false := rfl
  have hb : ∀ a v, frameZ[a]? = some v → fbByte (ended .ok 4003#13 (memFrom 0 frameZ)) a = v := by
    intro a v h
    simp [fbByte, ended, memRead_memFrom, h]
  simp [markersPass, hp, markersOk, hb 0 _ rfl, hb 1 _ rfl, hb endMarkAt _ frameZ_last]

theorem inv_literal : Inv (literal (sending 0#4)) :=
  { inv_sending 0#4 (by decide) with
    params_legal := by decide
    trig_range := by intro c; cases c <;> exact ⟨by decide, by decide, by decide, by decide⟩
    ok_markers := by simp [literal, sending]
    len_after_cap := fun _ => ⟨by decide, by decide⟩ }

/-! ## Witnesses: every statement's hypotheses can be met, at the boundaries where its clauses meet -/

theorem witness_DecodeEncodeEveryInstruction : wellFormed (.rdsmp 2047) = true := by decide
theorem witness_EncodeDecodeEveryWord :
    decode (.host 0xFFEB#16) = .ok (.rdsmp 2047) ∧ bitsAt 0x2FF#10 8 2 = 2 ∧ bitsAt 0x3FF#10 8 2 ≠ 2 := by decide
theorem witness_IllegalHostWordsRejected :
    decode (.host 0x0021#16) = .error .idxNotZero ∧ decode (.host 0x001B#16) = .error .chNotZero ∧
    decode (.host 0x000C#16) = .error .reservedOp ∧ decode (.host 0x000B#16) = .ok (.rdsmp 0) := by decide
theorem witness_StepRejects :
    paramsLegal State.reset.params = true ∧
    ({ State.reset with inbox := [.word (.host 0x0000#16)] } : State).inbox = [.word (.host 0x0000#16)] := by decide
theorem witness_ChannelFieldNamesChannel :
    (1 ≤ bitsAt 0x0001#16 0 4 ∧ bitsAt 0x0001#16 0 4 ≤ 9 ∧ bitsAt 0x0001#16 5 11 = 0) ∧
    (1 ≤ bitsAt 0x0019#16 0 4 ∧ bitsAt 0x0019#16 0 4 ≤ 9 ∧ bitsAt 0x0019#16 5 11 = 0) := by decide
theorem witness_SampleIndexFieldIsTheIndex : (1999 < 2048 ∧ 2047 < 2048) ∧ (2000 ≤ 2000 ∧ 2000 < 2048) := by decide
theorem witness_StepRunsDecodedInstruction :
    paramsLegal State.reset.params = true ∧ decode (.host 0x0009#16) = .ok (.cap .ch1) ∧
    (withInbox State.reset [.word (.host 0x0009#16), .reset]).inbox = [.word (.host 0x0009#16), .reset] := by decide
theorem witness_WaitsWithoutEvent : paramsLegal State.reset.params = true ∧ State.reset.inbox = [] := by decide
theorem witness_IllegalConfigurationRefused :
    paramsLegal State.reset.params = true ∧
    paramsLegal { trigDefault := 127#13, trigPolicy := .saturate, legacyStartCheck := false } = false ∧
    paramsLegal { trigDefault := 128#13, trigPolicy := .saturate, legacyStartCheck := false } = true ∧
    paramsLegal { trigDefault := 3969#13, trigPolicy := .saturate, legacyStartCheck := false } = false ∧
    paramsLegal { trigDefault := 128#13, trigPolicy := .literal, legacyStartCheck := false } = true ∧
    paramsLegal { trigDefault := 129#13, trigPolicy := .literal, legacyStartCheck := false } = false := by decide
theorem witness_EventsTakenInOrderParametersFixed :
    ∃ t, step (withInbox State.reset [.word (.host 0x0001#16), .reset]) = .next t := ⟨_, rfl⟩
theorem witness_ResetEvents :
    paramsLegal (sending 3#4).params = true ∧ (withInbox (sending 3#4) [.reset]).inbox = [.reset] ∧
    (withInbox (sending 3#4) [.reset]).phase ≠ .idle := by decide
theorem witness_NonzeroIdxIllegal :
    ∀ op : Fin 16, 1 ≤ op.val → op.val ≤ 9 →
      bitsAt (BitVec.ofNat 16 (32 + op.val)) 0 4 = op.val ∧ bitsAt (BitVec.ofNat 16 (32 + op.val)) 5 11 ≠ 0 := by decide
theorem witness_IncreaseTimebase :
    (settings (withCh1 5#3 2048#13 .rising) .ch1).tb.toNat < 6 ∧ 6 ≤ (settings (withCh1 6#3 2048#13 .rising) .ch1).tb.toNat := by
  decide
theorem witness_DecreaseTimebase :
    0 < (settings (withCh1 1#3 2048#13 .rising) .ch1).tb.toNat ∧
    (settings (withCh1 0#3 2048#13 .rising) .ch1).tb.toNat = 0 := by decide
theorem witness_ReadTimebase : Inv (sending 0#4) := inv_sending 0#4 (by decide)
theorem witness_IncreaseTriggerLevel :
    ((settings (withCh1 3#3 3967#13 .rising) .ch1).trig.toNat < 3968 ∧
      (withCh1 3#3 3967#13 .rising).params.trigPolicy = .saturate) ∧
    ((settings (literal (withCh1 3#3 3967#13 .rising)) .ch1).trig.toNat < 3968 ∧
      (literal (withCh1 3#3 3967#13 .rising)).params.trigPolicy = .literal) ∧
    ((settings (withCh1 3#3 3712#13 .rising) .ch1).trig.toNat < 3968 ∧
      (settings (withCh1 3#3 3712#13 .rising) .ch1).trig.toNat % 256 = 128) ∧
    3968 ≤ (settings (withCh1 3#3 3968#13 .rising) .ch1).trig.toNat := by decide
theorem witness_DecreaseTriggerLevel :
    (128 < (settings (withCh1 3#3 129#13 .rising) .ch1).trig.toNat ∧
      (withCh1 3#3 129#13 .rising).params.trigPolicy = .saturate) ∧
    (128 < (settings (literal (withCh1 3#3 256#13 .rising)) .ch1).trig.toNat ∧
      (literal (withCh1 3#3 256#13 .rising)).params.trigPolicy = .literal ∧
      256 ≤ (settings (literal (withCh1 3#3 256#13 .rising)) .ch1).trig.toNat) ∧
    (128 < (settings (withCh1 3#3 384#13 .rising) .ch1).trig.toNat ∧
      (settings (withCh1 3#3 384#13 .rising) .ch1).trig.toNat % 256 = 128) ∧
    (settings (withCh1 3#3 128#13 .rising) .ch1).trig.toNat ≤ 128 := by decide
theorem witness_LiteralDecrementNeverNegative :
    Inv (literal (sending 0#4)) ∧ (literal (sending 0#4)).params.trigPolicy = .literal ∧
    128 < (settings (literal (sending 0#4)) .ch1).trig.toNat := ⟨inv_literal, by decide, by decide⟩
theorem witness_TriggerRoundTrips :
    ((settings (withCh1 3#3 3712#13 .rising) .ch1).trig.toNat % 256 = 128 ∧
      (settings (withCh1 3#3 3712#13 .rising) .ch1).trig.toNat < 3968) ∧
    ((settings (withCh1 3#3 384#13 .rising) .ch1).trig.toNat % 256 = 128 ∧
      128 < (settings (withCh1 3#3 384#13 .rising) .ch1).trig.toNat) ∧
    ((settings (withCh1 3#3 3968#13 .rising) .ch1).trig.toNat % 256 = 128 ∧
      (settings (withCh1 3#3 3968#13 .rising) .ch1).trig.toNat ≤ 3968) ∧
    ((withCh1 3#3 3840#13 .rising).params.trigPolicy = .saturate ∧
      3712 < (settings (withCh1 3#3 3840#13 .rising) .ch1).trig.toNat ∧
      (settings (withCh1 3#3 3840#13 .rising) .ch1).trig.toNat ≤ 3968) := by decide
theorem witness_TriggerRoundTrips_literal :
    (literal (sending 0#4)).params.trigPolicy = .literal ∧ Inv (literal (sending 0#4)) ∧
    (settings (literal (sending 0#4)) .ch1).trig.toNat < 3968 := ⟨by decide, inv_literal, by decide⟩
theorem witness_SettingsSnapshotAtCapture :
    State.reset.phase = .idle ∧ (build State.reset .ch1)[9]? = some 0x45#8 ∧ isSettingsOp (.inctb .ch1) = true := by decide
theorem witness_RequestLayout : 3 < (dec (settings State.reset .ch1).trig).length := by decide
theorem witness_DecimalIsShortest :
    0x32#8 ∈ dec 2048#13 ∧ (0#13).toNat = 0 ∧ (1#13).toNat ≠ 0 ∧ (8191#13).toNat ≠ 0 := by decide
theorem witness_RequestLength :
    (settings (withCh1 3#3 9#13 .rising) .ch1).trig.toNat ≤ 9 ∧
    (10 ≤ (settings (withCh1 3#3 10#13 .rising) .ch1).trig.toNat ∧
      (settings (withCh1 3#3 99#13 .rising) .ch1).trig.toNat ≤ 99) ∧
    (100 ≤ (settings (withCh1 3#3 100#13 .rising) .ch1).trig.toNat ∧
      (settings (withCh1 3#3 999#13 .rising) .ch1).trig.toNat ≤ 999) ∧
    1000 ≤ (settings (withCh1 3#3 1000#13 .rising) .ch1).trig.toNat ∧
    (build (withCh1 3#3 9#13 .rising) .ch1)[6]? = some 0x45#8 := by decide
theorem witness_RequestLength_saturate : Inv (sending 0#4) ∧ (sending 0#4).params.trigPolicy = .saturate :=
  ⟨inv_sending 0#4 (by decide), by decide⟩
theorem witness_CaptureRequestAcceptedOrBusy :
    (sending 0#4).phase ≠ .idle ∧ State.reset.phase = .idle ∧ (build State.reset .ch1)[0]? = some 0x53#8 ∧ 1999 < 2000 := by
  decide
theorem witness_ReadStatus_words :
    (bitsAt 0x001A#16 0 4 = 0xA ∧ bitsAt 0x001A#16 4 1 ≠ 0) ∧ (bitsAt 0x002A#16 0 4 = 0xA ∧ bitsAt 0x002A#16 5 11 ≠ 0) := by
  decide
theorem witness_ReadStatus_shortRead : Inv (ended .shortRead 4002#13 []) :=
  inv_ended _ _ _ (by decide) (by decide) rfl (by decide) (by decide) (by decide) (by decide) (by simp)
theorem witness_ReadStatus_framingError : Inv (ended .framingError 4003#13 []) :=
  inv_ended _ _ _ (by decide) (by decide) rfl (by decide) (by decide) (by decide) (by decide) (by simp)
theorem witness_ReadStatus_ok : Inv (ended .ok 4003#13 (memFrom 0 frameZ)) := inv_okFrame
theorem witness_ReadStatus_transportError : Inv { ended .transportError 0#13 [] with txIdx := 3#4 } := inv_transportError
theorem witness_ReadSample :
    2047 < 2048 ∧ (bitsAt 0x001B#16 0 4 = 0xB ∧ bitsAt 0x001B#16 4 1 ≠ 0) ∧ 2000 ≤ 2000 ∧
    (1999 < 2000 ∧ State.reset.code ≠ .ok) ∧ (1999 < 2000 ∧ (ended .ok 4003#13 []).code = .ok) ∧
    ((ended .ok 4003#13 []).phase = .idle ∧ isCap (.rdsmp 0) = false) := by decide
theorem witness_SampleFromItsPair :
    1999 < 2000 ∧
    bitsAt (fbByte (ended .ok 4003#13 [(4000, 0xFF#8), (4001, 0xFF#8)]) (2 * 1999 + 2)) 0 7 =
      bitsAt (fbByte (ended .ok 4003#13 [(4000, 0x7F#8), (4001, 0x1F#8)]) (2 * 1999 + 2)) 0 7 ∧
    bitsAt (fbByte (ended .ok 4003#13 [(4000, 0xFF#8), (4001, 0xFF#8)]) (2 * 1999 + 3)) 0 5 =
      bitsAt (fbByte (ended .ok 4003#13 [(4000, 0x7F#8), (4001, 0x1F#8)]) (2 * 1999 + 3)) 0 5 := by decide
theorem witness_TransportTakesRequestByte :
    ((sending 9#4).phase = .tx ∧ (sending 9#4).txIdx.toNat < 10 ∧ (sending 9#4).txIdx.toNat + 1 = (sending 9#4).cmdLen.toNat) ∧
    ((sending 8#4).phase = .tx ∧ (sending 8#4).txIdx.toNat + 1 ≠ (sending 8#4).cmdLen.toNat) ∧
    (receiving 0#13 []).phase ≠ .tx := by decide
theorem witness_WriteFailureEndsCapture :
    (sending 0#4).phase = .tx ∧ State.reset.phase ≠ .tx ∧
    (State.reset.phase = .idle ∧ 9 < (build State.reset .ch1).length) := by decide
theorem witness_ResponseByteStored :
    ((receiving 4001#13 []).phase = .rx ∧ (receiving 4001#13 []).rxCnt.toNat + 1 < 4003) ∧
    ((receiving 4002#13 []).rxCnt.toNat < 4003 ∧ (receiving 4002#13 []).rxCnt.toNat + 1 = 4003) ∧
    (sending 0#4).phase ≠ .rx := by decide
theorem witness_ReadTimeoutIsShortRead : (receiving 0#13 []).phase = .rx ∧ (ended .ok 4003#13 []).phase ≠ .rx := by decide
theorem witness_MarkersDecideVerdict :
    ((receiving 4001#13 []).phase = .rx ∧ (receiving 4001#13 []).rxCnt.toNat < 4002) ∧
    (receiving 4002#13 startMarks).phase = .rx ∧ (receiving 4002#13 startMarks).rxCnt.toNat = 4002 ∧
    (receiving 4002#13 startMarks).params.legacyStartCheck = false ∧
    (fbByte (receiving 4002#13 startMarks) 0 = 0x53#8 ∧ fbByte (receiving 4002#13 startMarks) 1 = 0x4D#8) ∧
    (legacy (receiving 4002#13 startMarks)).params.legacyStartCheck = true ∧
    fbByte (receiving 4002#13 [(0, 0x00#8)]) 0 ≠ 0x53#8 ∧ fbByte (legacy (receiving 4002#13 [(1, 0x00#8)])) 1 ≠ 0x4D#8 := by
  decide
theorem witness_OnlyMissingBufferBytesFault :
    ((sending 10#4).phase = .tx ∧ 10 ≤ (sending 10#4).txIdx.toNat) ∧
    ((receiving 4003#13 []).phase = .rx ∧ 4003 ≤ (receiving 4003#13 []).rxCnt.toNat) := by decide
theorem witness_LevelOutputs :
    txValid (sending 9#4) = true ∧ txValid State.reset = false ∧ txData (sending 9#4) = some 0x45#8 ∧
    (sending 9#4).txIdx.toNat < 10 := by decide
theorem witness_OneResponsePerHostOperation :
    isHostOp .rdst = true ∧ isSettingsOp (.gettb .ch1) = true ∧ isMutator (.inctb .ch1) = true ∧
    isCap (.cap .ch1) = true ∧ outOf (.inctb .ch1) State.reset = some [.resp (.ack 0#32)] ∧
    outOf (.cap .ch1) State.reset = some [.resp (.ack 0#32)] := by decide
theorem witness_RejectsChangeNothing :
    outOf (.cap .ch1) (sending 0#4) = some [.resp (.rej .busy)] ∧ outOf (.rdsmp 1999) State.reset = some [.resp (.rej .noData)] ∧
    outOf (.rdsmp 2000) State.reset = some [.resp (.rej .range)] ∧ decode (.host 0x0000#16) = .error .reservedOp := by decide
theorem witness_RejectPrecedence :
    decode (.host 0x0029#16) = .error .idxNotZero ∧ (sending 0#4).phase ≠ .idle ∧ 2000 ≤ 2000 ∧
    (1999 < 2000 ∧ State.reset.code ≠ .ok) := by decide
theorem witness_EventsOutOfPhaseIgnored :
    (meaningPhase .txacc = some .tx ∧ (receiving 0#13 []).phase ≠ .tx) ∧
    (meaningPhase (.rxb 0x41#8) = some .rx ∧ State.reset.phase ≠ .rx) ∧ outOf .rxto (sending 0#4) = some [] := by decide
theorem witness_ReadsHaveNoSideEffect :
    isHostRead (.rdsmp 0) = true ∧ ∃ t, exec (.inctb .ch1) State.reset = .next t := ⟨by decide, _, rfl⟩
theorem witness_InstructionEmitsDoneExactlyWhenBusyFalls :
    ∃ t, step (withInbox (receiving 4002#13 startMarks) [.word (.transport 0x245#10)]) = .next t ∧
      ∃ o ∈ t.out, isDone o = true := ⟨_, rfl, _, List.mem_singleton.mpr rfl, rfl⟩
theorem witness_CaptureEndKeepsTheRest :
    (∃ t, exec .rxto (receiving 4002#13 []) = .next t ∧ ∃ o ∈ t.out, isDone o = true) ∧
    (∀ b, Instr.rxto ≠ .rxb b) ∧
    (∃ t, exec (.rxb 0x45#8) (receiving 4002#13 startMarks) = .next t ∧ ∃ o ∈ t.out, isDone o = true) ∧
    4001 ≠ (receiving 4002#13 startMarks).rxCnt.toNat :=
  ⟨⟨_, rfl, _, List.mem_singleton.mpr rfl, rfl⟩, by simp, ⟨_, rfl, _, List.mem_singleton.mpr rfl, rfl⟩, by decide⟩
theorem witness_EveryStepKeepsInvariants :
    Inv (withInbox (receiving 0#13 []) [.word (.transport 0x253#10)]) ∧
    ∃ t, step (withInbox (receiving 0#13 []) [.word (.transport 0x253#10)]) = .next t :=
  ⟨{ inv_receiving with ok_markers := by simp [receiving, sending] }, _, rfl⟩
theorem witness_EveryStepKeepsBuffersCanonical :
    Memory.wf 10 (receiving 2#13 startMarks).cmdBuf = true ∧ Memory.wf 4003 (receiving 2#13 startMarks).fb = true ∧
    ∃ t, step (withInbox (receiving 2#13 startMarks) [.word (.transport 0x200#10)]) = .next t :=
  ⟨by decide, by decide, _, rfl⟩
theorem witness_NoFatalState :
    Inv (sending 9#4) ∧ outOf .txerr (sending 9#4) = some [.done .ch1 .transportError] ∧
    outOf (.cap .ch2) (sending 9#4) = some [.resp (.rej .busy)] :=
  ⟨inv_sending 9#4 (by decide), by decide, by decide⟩
theorem witness_UnspecifiedBytesNeverObservable :
    Inv (sending 0#4) ∧ SameButUnspecified (sending 0#4) { sending 0#4 with cmdEpoch := 7, fbEpoch := 9 } ∧
    ∃ t, step (sending 0#4) = .next t := ⟨inv_sending 0#4 (by decide), rfl, _, rfl⟩
theorem witness_RequestSentWholeInOrder : State.reset.phase = .idle := by decide
theorem witness_ResponseStoredInArrivalOrder :
    (receiving 0#13 []).phase = .rx ∧ (receiving 0#13 []).rxCnt.toNat = 0 ∧ frameZ.length ≤ 4003 ∧
    frameZ[4002]? = some 0x45#8 ∧ frameZ.length ≤ 4003 := by
  refine ⟨by decide, by decide, by rw [frameZ_length], frameZ_last, by rw [frameZ_length]⟩
theorem witness_ShortResponseYieldsNoData :
    (receiving 0#13 []).phase = .rx ∧ (receiving 0#13 []).rxCnt.toNat = 0 ∧ (List.replicate 4002 0x00#8).length < 4003 ∧
    ([] : List Byte).length < 4003 := by
  refine ⟨by decide, by decide, by rw [List.length_replicate]; decide, by decide⟩
theorem witness_CaptureDeliversTheFrame_good :
    State.reset.phase = .idle ∧ frameZ.length = 4003 ∧ frameZ[0]? = some 0x53#8 ∧ frameZ[1]? = some 0x4D#8 ∧
    frameZ[4002]? = some 0x45#8 := ⟨by decide, frameZ_length, rfl, rfl, frameZ_last⟩
theorem witness_CaptureDeliversTheFrame_bad :
    (List.replicate 4003 0x00#8).length = 4003 ∧ ¬ (List.replicate 4003 0x00#8)[1]? = some 0x4D#8 :=
  ⟨List.length_replicate, fun h => absurd (Option.some.inj h) (by decide)⟩
theorem witness_SendingHasNoTimeout :
    (sending 0#4).phase = .tx ∧ ∀ i ∈ [Instr.rxto, .cap .ch2, .inctb .ch1], i ≠ .txacc ∧ i ≠ .txerr := by decide
theorem witness_SamplesReadableUntilNextCapture :
    ((ended .ok 4003#13 []).phase = .idle ∧ (ended .ok 4003#13 []).code = .ok ∧
      ∀ i ∈ [Instr.rdst, .rxb 0x41#8], isCap i = false) ∧
    ∃ t o, runInstrs [.cap .ch1, .rdst] State.reset = some (t, o) ∧ ∀ x ∈ o, isDone x = false :=
  ⟨by decide, _, _, rfl, by decide⟩
theorem witness_OneOutcomePerCapture :
    (receiving 0#13 []).phase ≠ .idle ∧ (∀ i ∈ [Instr.rxto, .rxto], isCap i = false) ∧
    ∃ t o, runInstrs [.rxto, .rxto] (receiving 0#13 []) = some (t, o) := ⟨by decide, by decide, _, _, rfl⟩

end Sys2Proof.Tests
end

section
/-! PROOFS. The family 20_memory.md: what each instruction writes, that reads write nothing, and where the bytes of the
request and of the response go. -/

namespace Sys2Proof.Proofs.Memory

open Sys2Proof Sys2Proof.Machine Sys2Proof.Safety

/-! ## Writers (10_state.md R15) -/

/-- A state in which everything is kept needs no writer. -/
theorem onlyWriters_of_allKept {i : Instr} {s t : State} (h : AllKept s t) : OnlyWriters i s t := by
  obtain ⟨⟨h1, h2⟩, ⟨hphase, hcode, hlch, hlen, hidx, hcnt⟩, hfb, hcmd, -⟩ := h
  have hs : ∀ c, settings t c = settings s c := fun c => by cases c <;> assumption
  constructor <;> simp [hs, hphase, hcode, hlch, hlen, hidx, hcnt, hfb _, hcmd _]

/-- Replacing the settings of channel `c` needs writers for the registers of `c` that change, and no other. -/
theorem onlyWriters_setSettings {i : Instr} {s : State} {c : Channel} {v : Settings} {o : List Output}
    (htb : v.tb ≠ (settings s c).tb → i = .inctb c ∨ i = .dectb c)
    (htrig : v.trig ≠ (settings s c).trig → i = .inctrig c ∨ i = .dectrig c)
    (hedge : v.edge ≠ (settings s c).edge → i = .tgledge c) :
    OnlyWriters i s (withOut (setSettings s c v) o) := by
  have hd : ∀ d, d = c ∨ settings (setSettings s c v) d = settings s d := fun d =>
    or_iff_not_imp_left.mpr (settings_setSettings_other s v)
  constructor
  case tb => intro d; rcases hd d with rfl | e <;> simp_all
  case trig => intro d; rcases hd d with rfl | e <;> simp_all
  case edge => intro d; rcases hd d with rfl | e <;> simp_all
  all_goals simp

/-- Whatever an instruction changes, it is a writer of. -/
theorem exec_onlyWriters {i : Instr} {s t : State} (h : exec i s = .next t) : OnlyWriters i s t := by
  cases exec_effect h with
  | tb c i v hi => exact onlyWriters_setSettings (fun _ => hi) (absurd rfl) (absurd rfl)
  | trig c i v hi =>
    exact onlyWriters_setSettings (absurd rfl) (fun _ => hi.imp And.left And.left) (absurd rfl)
  | edge c => exact onlyWriters_setSettings (absurd rfl) (absurd rfl) (fun _ => rfl)
  | read i v hi => exact onlyWriters_of_allKept (allKept_withOut s _)
  | busy c hp => exact onlyWriters_of_allKept (allKept_withOut s _)
  | range k hk => exact onlyWriters_of_allKept (allKept_withOut s _)
  | noData k hk hc => exact onlyWriters_of_allKept (allKept_withOut s _)
  | ignored i p hi hp => exact onlyWriters_of_allKept (allKept_withOut s _)
  | cap c hp => constructor <;> simp
  | txacc hp hx => constructor <;> simp
  | txerr hp => constructor <;> simp
  | rxb b hp hx => constructor <;> simp
  | rxbLast b hp hx code hc => constructor <;> simp
  | rxto hp => constructor <;> simp

/-! ## Reads (20_memory.md R39) -/

/-- A read changes the outputs alone. -/
theorem exec_hostRead {i : Instr} (s : State) (h : isHostRead i = true) : ∃ o, exec i s = .next (withOut s o) := by
  cases i with
  | gettb c => exact ⟨_, rfl⟩
  | gettrig c => exact ⟨_, rfl⟩
  | getedge c => exact ⟨_, rfl⟩
  | rdst => exact ⟨_, rfl⟩
  | rdsmp k => rcases execRdsmp_cases k s with ⟨_, e⟩ | ⟨_, _, e⟩ | ⟨_, _, e⟩ <;> exact ⟨_, e⟩
  | _ => simp [isHostRead] at h

/-- No read looks at the outputs of an earlier step (log entry 6). -/
theorem exec_withOut_hostRead {i : Instr} (s : State) (o : List Output) (h : isHostRead i = true) :
    exec i (withOut s o) = exec i s := by
  cases i with
  | gettb c => cases c <;> rfl
  | gettrig c => cases c <;> rfl
  | getedge c => cases c <;> rfl
  | rdst => rfl
  | rdsmp k => rfl
  | _ => simp [isHostRead] at h

/-- Settles O45: reads change the outputs alone, and no meaning of a read looks at them; the writers are those of
`exec_onlyWriters`. -/
theorem readsHaveNoSideEffect : Obligations.ReadsHaveNoSideEffect := by
  refine ⟨fun i s hi => ?_, fun i s t => exec_onlyWriters⟩
  obtain ⟨o, ho⟩ := exec_hostRead s hi
  have hrepeat : exec i (withOut s o) = .next (withOut s o) := (exec_withOut_hostRead s o hi).trans ho
  exact ⟨_, ho, allKept_withOut s o, _, hrepeat, rfl⟩

/-! ## The request latch (20_memory.md R42) -/

/-- No instruction but CAP changes the request. -/
theorem exec_keeps_cmd {i : Instr} {s t : State} (h : exec i s = .next t) (hi : isCap i = false) :
    CmdKept s t ∧ t.cmdLen = s.cmdLen := by
  have hcap : ¬ ∃ c, i = .cap c := by
    rintro ⟨c, rfl⟩
    simp [isCap] at hi
  have hsame := mt (exec_onlyWriters h).cmd hcap
  push Not at hsame
  exact hsame

theorem isCap_of_isSettingsOp {i : Instr} (h : isSettingsOp i = true) : isCap i = false := by
  cases i with
  | cap c => simp [isSettingsOp] at h
  | _ => rfl

/-- A settings operation completes in every state. -/
theorem exec_settingsOp_next {i : Instr} (s : State) (h : isSettingsOp i = true) : ∃ t, exec i s = .next t :=
  exec_next (by rintro rfl; simp [isSettingsOp] at h) (by rintro b rfl; simp [isSettingsOp] at h)

/-- Settles O25: the accepted CAP latches the request built in its own state, and settings operations are no writers
of it. -/
theorem settingsSnapshotAtCapture : Obligations.SettingsSnapshotAtCapture := by
  refine ⟨fun c s hs => ?_, fun i s hi => ?_⟩
  · rcases execCap_cases c s with ⟨-, e⟩ | ⟨hbusy, -⟩
    · exact ⟨_, e, fun k b => cmdByte_latchCapture s c (build s c)⟩
    · exact absurd hs hbusy
  · obtain ⟨t, ht⟩ := exec_settingsOp_next s hi
    exact ⟨t, ht, exec_keeps_cmd ht (isCap_of_isSettingsOp hi)⟩

/-! ## The response bytes (20_memory.md R34) -/

/-- A run whose first instruction completes. -/
theorem runInstrs_cons {i : Instr} {is : List Instr} {s t u : State} {o : List Output} (hi : exec i s = .next t)
    (his : runInstrs is t = some (u, o)) : runInstrs (i :: is) s = some (u, t.out ++ o) := by
  simp [runInstrs, hi, his]

/-- RXB in RX stores its byte at RX_CNT and counts it; only the 4003rd byte leaves RX. -/
theorem exec_rxb_stores (b : Byte) {s : State} (hp : s.phase = .rx) (hc : s.rxCnt.toNat < 4003) :
    ∃ t, exec (.rxb b) s = .next t ∧ t.rxCnt.toNat = s.rxCnt.toNat + 1 ∧ fbByte t s.rxCnt.toNat = b ∧
      (∀ a, a ≠ s.rxCnt.toNat → fbByte t a = fbByte s a) ∧ (s.rxCnt.toNat + 1 < 4003 → t.phase = .rx) := by
  have hcnt := storeFrameByte_rxCnt_toNat b hc
  have hsame := fbByte_storeFrameByte_same s b
  have hother := fun a => fbByte_storeFrameByte_other s b (a := a)
  rcases execRxb_cases b s with ⟨-, hlast, e⟩ | ⟨-, -, e⟩ | ⟨-, hmany, -⟩ | ⟨hnot, -⟩
  · exact ⟨_, e, hcnt, hsame, hother, by omega⟩
  · exact ⟨_, e, hcnt, hsame, hother, fun _ => hp⟩
  · omega
  · exact absurd hp hnot

/-- The RXB events of a list that FB has room for store the list from RX_CNT on and leave the rest of FB. RX is needed
only while bytes are still to come, since the 4003rd leaves it. -/
theorem runInstrs_rxb (f : List Byte) (s : State) (hp : f ≠ [] → s.phase = .rx)
    (hc : s.rxCnt.toNat + f.length ≤ 4003) :
    ∃ t o, runInstrs (f.map .rxb) s = some (t, o) ∧ t.rxCnt.toNat = s.rxCnt.toNat + f.length ∧
      (∀ k b, f[k]? = some b → fbByte t (s.rxCnt.toNat + k) = b) ∧
      (∀ a, a < s.rxCnt.toNat ∨ s.rxCnt.toNat + f.length ≤ a → fbByte t a = fbByte s a) := by
  induction f generalizing s with
  | nil => exact ⟨s, [], rfl, rfl, by simp, fun _ _ => rfl⟩
  | cons b f ih =>
    rw [List.length_cons] at hc
    obtain ⟨u, hu, hucnt, husame, huother, huphase⟩ := exec_rxb_stores b (hp (by simp)) (by omega)
    have hroom : f ≠ [] → u.phase = .rx := fun hf => huphase (by have := List.length_pos_of_ne_nil hf; omega)
    obtain ⟨t, o, ht, htcnt, htstored, htkept⟩ := ih u hroom (by omega)
    refine ⟨t, u.out ++ o, runInstrs_cons hu ht, by simp only [List.length_cons]; omega, ?_, fun a ha => ?_⟩
    · rintro (_ | k) d hk
      · have hbd : b = d := by simpa using hk
        rw [← hbd, ← husame]
        exact htkept _ (.inl (by omega))
      · rw [show s.rxCnt.toNat + (k + 1) = u.rxCnt.toNat + k by omega]
        exact htstored k d (by simpa using hk)
    · rw [List.length_cons] at ha
      rw [htkept a (by omega), huother a (by omega)]

/-- Settles O55: `runInstrs_rxb` at RX_CNT 0. -/
theorem responseStoredInArrivalOrder : Obligations.ResponseStoredInArrivalOrder := by
  intro s f hp h0 hlen
  simpa [h0] using runInstrs_rxb f s (fun _ => hp) (by omega)

end Sys2Proof.Proofs.Memory
end

section
/-! PROOFS. The family 30_encoding.md: which words are legal and what a word decodes to, the request string and its
decimal level, the STATUS and response words, and which instruction answers what. -/

namespace Sys2Proof.Proofs.Encoding

open Sys2Proof Sys2Proof.Machine Sys2Proof.Safety

/-! ## Host words (30_encoding.md R45 to R49) -/

/-- A word that names an operation and keeps its unused fields at 0 decodes to that operation. -/
theorem decode_host_of_hostInstr {w : HostWord} {i : Instr}
    (hi : hostInstr (opOf w).toNat (channelOf (chOf w)) (idxOf w).toNat = some i)
    (hidx : (opOf w).toNat = 0xB ∨ idxOf w = 0#11) (hch : (opOf w).toNat < 0xA ∨ chOf w = 0#1) :
    decode (.host w) = .ok i := by
  rcases decodeHost_cases w with ⟨j, hj, hd, -⟩ | ⟨r, -, hr⟩
  · obtain rfl := Option.some.inj (hi.symm.trans hj)
    exact hd
  · have hop := hostInstr_isSome (opOf w).toNat (channelOf (chOf w)) (idxOf w).toNat
    simp only [hi, Option.isSome_some, true_iff] at hop
    bv_omega

/-- legal(w) of 30_encoding.md R49. -/
theorem decode_host_ok_iff (w : HostWord) :
    (∃ i, decode (.host w) = .ok i) ↔
      (1 ≤ bitsAt w 0 4 ∧ bitsAt w 0 4 ≤ 0xB) ∧
      (bitsAt w 0 4 = 0xB ∨ bitsAt w 5 11 = 0) ∧
      (bitsAt w 0 4 < 0xA ∨ bitsAt w 4 1 = 0) := by
  simp only [bitsAt_op, bitsAt_idx, bitsAt_ch]
  rcases decodeHost_cases w with ⟨i, hi, hd, hidx, hch⟩ | ⟨r, hd, hr⟩
  · have hop := (hostInstr_isSome _ _ _).mp (Option.isSome_of_eq_some hi)
    exact iff_of_true ⟨i, hd⟩ ⟨hop, by bv_omega, by bv_omega⟩
  · refine iff_of_false ?_ (by bv_omega)
    rintro ⟨i, hi⟩
    exact absurd (hd.symm.trans hi) (by simp)

/-- The decoder is total: it rejects exactly what it does not accept. -/
theorem decode_error_iff (w : InputWord) : (∃ r, decode w = .error r) ↔ ¬ ∃ i, decode w = .ok i := by
  cases decode w <;> simp

/-- Only host operations have host words (30_encoding.md R46). -/
theorem isHostOp_of_decode_host {w : HostWord} {i : Instr} (h : decode (.host w) = .ok i) : isHostOp i = true := by
  rcases decodeHost_cases w with ⟨j, hj, hd, -⟩ | ⟨r, hd, -⟩
  · obtain rfl : j = i := Except.ok.inj (hd.symm.trans h)
    unfold hostInstr at hj
    split at hj <;> cases hj <;> rfl
  · exact absurd (hd.symm.trans h) (by simp)

/-- CH + 1 numbers the channel that CH names (30_encoding.md R47). -/
theorem channelNumber_channelOf (b : BitVec 1) : channelNumber (channelOf b) = b.toNat + 1 := by
  by_cases h : b = 0#1
  · simp [channelOf, channelNumber, h]
  · have : b.toNat = 1 := by bv_omega
    simp [channelOf, channelNumber, h, this]

/-- The word of RDSMP by its index (30_encoding.md R48). -/
theorem decode_rdsmp_word {i : Nat} (h : i < 2048) :
    decode (.host (BitVec.ofNat 16 (32 * i + 0xB))) = .ok (.rdsmp i) := by
  have hw : BitVec.ofNat 16 (32 * i + 0xB) = hostWord 0xB#4 0#1 (BitVec.ofNat 11 i) := by
    apply BitVec.eq_of_toNat_eq
    simp only [hostWord_toNat, BitVec.toNat_ofNat]
    omega
  rw [hw]
  refine decode_host_of_hostInstr ?_ (.inl (by simp)) (.inr (by simp))
  simp [hostInstr, Nat.mod_eq_of_lt h]

/-! ## Words at the step -/

/-- A legal word runs its instruction. -/
theorem step_of_decode_ok {s : State} {w : InputWord} {es : List Event} {i : Instr} (hp : paramsLegal s.params = true)
    (hs : s.inbox = .word w :: es) (hd : decode w = .ok i) : step s = exec i (withInbox s es) := by
  simp [step, fetch, hp, hs, hd]

/-- An illegal word answers REJ(ILLEGAL). -/
theorem step_of_decode_error {s : State} {w : InputWord} {es : List Event} {r : Illegal}
    (hp : paramsLegal s.params = true) (hs : s.inbox = .word w :: es) (hd : decode w = .error r) :
    step s = .next (withOut (withInbox s es) [.resp (.rej .illegal)]) := by
  simp [step, fetch, hp, hs, hd]

/-- A word that no instruction has is rejected with ILLEGAL (30_encoding.md R49). -/
theorem stepRejects_illegal {w : HostWord} {r : Illegal} (h : decode (.host w) = .error r) : StepRejects w .illegal :=
  fun _ _ hp hs => ⟨_, step_of_decode_error hp hs h, rfl, allKept_withOut _ _⟩

/-- A word whose instruction only answers a reject is rejected. -/
theorem stepRejects_of_exec {w : HostWord} {i : Instr} {r : Reason} (hd : decode (.host w) = .ok i)
    (hi : ∀ s, exec i s = .next (withOut s [.resp (.rej r)])) : StepRejects w r :=
  fun _ _ hp hs => ⟨_, (step_of_decode_ok hp hs hd).trans (hi _), rfl, allKept_withOut _ _⟩

/-- Settles O3: `decode_host_ok_iff`, its complement, and `stepRejects_illegal`. -/
theorem illegalHostWordsRejected : Obligations.IllegalHostWordsRejected := by
  refine ⟨fun w => ?_, decode_host_ok_iff, fun w r => stepRejects_illegal,
    stepRejects_illegal (r := .reservedOp) rfl⟩
  rw [decode_error_iff, decode_host_ok_iff]
  omega

/-- Settles O4: the channel is the one CH names, and the nine operation codes are read off the table of R46. -/
theorem channelFieldNamesChannel : Obligations.ChannelFieldNamesChannel := by
  intro w h1 h9 hidx
  refine ⟨channelOf (chOf w), ?_, decode_host_of_hostInstr ?_ (.inr ?_) (.inl ?_)⟩
  · rw [bitsAt_ch, channelNumber_channelOf]
  · rw [bitsAt_op] at h1 h9 ⊢
    generalize (opOf w).toNat = op at h1 h9 ⊢
    interval_cases op <;> rfl
  · rw [bitsAt_idx] at hidx
    bv_omega
  · rw [bitsAt_op] at h9
    omega

/-- RDSMP from index 2000 on answers REJ(RANGE) in every state. -/
theorem exec_rdsmp_range {i : Nat} (h : 2000 ≤ i) (s : State) :
    exec (.rdsmp i) s = .next (withOut s [.resp (.rej .range)]) := by
  rcases execRdsmp_cases i s with ⟨-, e⟩ | ⟨hi, -⟩ | ⟨hi, -⟩
  · exact e
  · omega
  · omega

/-- Settles O5: `decode_rdsmp_word`, and the answer of RDSMP from index 2000 on. -/
theorem sampleIndexFieldIsTheIndex : Obligations.SampleIndexFieldIsTheIndex :=
  ⟨fun _ => decode_rdsmp_word, fun _ hlo hhi => stepRejects_of_exec (decode_rdsmp_word hhi) (exec_rdsmp_range hlo)⟩

/-! ## Event words (30_encoding.md R52) -/

/-- An event word as the number its two fields make. -/
theorem ofNat_eq_eventWord (k : Nat) (d : Byte) :
    BitVec.ofNat 10 (256 * k + d.toNat) = eventWord (BitVec.ofNat 2 k) d := by
  apply BitVec.eq_of_toNat_eq
  simp only [eventWord_toNat, BitVec.toNat_ofNat]
  omega

/-- Settles O6: the decoder looks at KIND, and at DATA for RXB alone. -/
theorem transportWordKinds : Obligations.TransportWordKinds := by
  intro d
  have hdecode (k : Nat) : decode (.transport (BitVec.ofNat 10 (256 * k + d.toNat))) =
      .ok (decodeTransport (eventWord (BitVec.ofNat 2 k) d)) := by
    rw [ofNat_eq_eventWord, decode]
  refine ⟨(hdecode 0).trans ?_, (hdecode 1).trans ?_, (hdecode 2).trans ?_, (hdecode 3).trans ?_⟩ <;>
    simp [decodeTransport]

/-! ## Decimal strings (30_encoding.md R55, R56) -/

/-- A digit character put at the end of a string. -/
theorem decimalValue_append_digit (ds : List Byte) {d : Nat} (h : d < 10) :
    decimalValue (ds ++ [digit d]) = 10 * decimalValue ds + d := by
  simp [decimalValue, digit_toNat h]

/-- With fuel for all its digits, the string of `v` has the value `v`. -/
theorem decimalValue_decDigits {fuel v : Nat} (h : v < 10 ^ fuel) : decimalValue (decDigits fuel v) = v := by
  induction fuel generalizing v with
  | zero =>
    obtain rfl : v = 0 := by simpa using h
    rfl
  | succ fuel ih =>
    by_cases hv : v < 10
    · rw [decDigits_stop hv]
      simpa [decimalValue] using decimalValue_append_digit [] hv
    · rw [decDigits_more (by omega), decimalValue_append_digit _ (Nat.mod_lt v (by omega)), ih (by omega)]
      omega

/-- With fuel for all its digits, the string of a `v` above 0 starts with the character of a digit above 0. -/
theorem decDigits_head {fuel v : Nat} (h : v < 10 ^ fuel) (h0 : v ≠ 0) :
    ∃ d ds, decDigits fuel v = digit d :: ds ∧ 0 < d ∧ d < 10 := by
  induction fuel generalizing v with
  | zero => exact absurd (by simpa using h) h0
  | succ fuel ih =>
    by_cases hv : v < 10
    · exact ⟨v, [], decDigits_stop hv, by omega, hv⟩
    · obtain ⟨d, ds, e, hd⟩ := ih (v := v / 10) (by omega) (by omega)
      exact ⟨d, ds ++ [digit (v % 10)], by rw [decDigits_more (by omega), e, List.cons_append], hd⟩

/-- A 13-bit level is within the fuel of `dec`. -/
theorem level_lt_fuel (v : BitVec 13) : v.toNat < 10 ^ 13 := v.isLt.trans (by decide)

theorem isDigit_of_mem_dec {v : BitVec 13} {b : Byte} (h : b ∈ dec v) : isDigit b := by
  obtain ⟨d, hd, rfl⟩ := decDigits_digits _ _ b h
  simp only [isDigit, digit_toNat hd]
  omega

/-- Settles O27: the value by `decimalValue_decDigits`, the leading digit by `decDigits_head`. -/
theorem decimalIsShortest : Obligations.DecimalIsShortest := by
  intro v
  refine ⟨fun _ => isDigit_of_mem_dec, decimalValue_decDigits (level_lt_fuel v), fun h0 => ?_, fun h0 => ?_⟩
  · rw [dec, h0]
    rfl
  · obtain ⟨d, ds, e, hpos, hlt⟩ := decDigits_head (level_lt_fuel v) h0
    refine ⟨_, ds, e, fun hzero => ?_⟩
    have := digit_toNat hlt
    rw [hzero] at this
    simp only [BitVec.toNat_ofNat] at this
    omega

/-! ## The request string (30_encoding.md R54, R55) -/

theorem flag_eq (e : Edge) : flag e = match e with | .rising => 0x31#8 | .falling => 0x30#8 := by
  cases e <;> rfl

theorem digit_channelNumber (c : Channel) :
    digit (channelNumber c) = match c with | .ch1 => 0x31#8 | .ch2 => 0x32#8 := by
  cases c <;> rfl

/-- The request from byte 4 on is the level, the edge flag and 'E'. -/
theorem build_getElem?_add_four (s : State) (c : Channel) (k : Nat) :
    (build s c)[4 + k]? = (dec (settings s c).trig ++ [flag (settings s c).edge, asciiE])[k]? := by
  rw [build, List.append_assoc, List.getElem?_append_right (by simp)]
  simp

/-- Settles O26: bytes 0 to 3 stand in `build` as they are, the rest follow from `build_getElem?_add_four`. -/
theorem requestLayout : Obligations.RequestLayout := by
  intro c s
  refine ⟨rfl, rfl, ?_, ?_, fun k hk => ?_, ?_, ?_, build_length s c⟩
  · rw [BitVec.ofNat_add]
    rfl
  · exact congrArg some (digit_channelNumber c)
  · rw [build_getElem?_add_four, List.getElem?_append_left hk]
  · rw [build_getElem?_add_four]
    exact .trans (by simp) (congrArg some (flag_eq (settings s c).edge))
  · rw [show 5 + (dec (settings s c).trig).length = 4 + ((dec (settings s c).trig).length + 1) by omega,
      build_getElem?_add_four]
    simp

/-! ## The STATUS word (30_encoding.md R60) -/

/-- STATUS as a number: its four fields, each at its weight. -/
theorem status_toNat (s : State) :
    (status s).toNat = 2 ^ 17 * (phaseBits s.phase).toNat + 2 ^ 4 * s.rxCnt.toNat +
      2 ^ 3 * (channelBit s.lch).toNat + (codeBits s.code).toNat := by
  simp only [status, BitVec.toNat_setWidth, BitVec.toNat_append]
  rw [← Nat.shiftLeft_add_eq_or_of_lt s.rxCnt.isLt, ← Nat.shiftLeft_add_eq_or_of_lt (channelBit s.lch).isLt,
    ← Nat.shiftLeft_add_eq_or_of_lt (codeBits s.code).isLt]
  simp only [Nat.shiftLeft_eq]
  omega

/-- The numbers of CODE (30_encoding.md R61). -/
theorem codeBits_toNat (code : Code) :
    (codeBits code).toNat = match code with
      | .none => 0
      | .pending => 1
      | .ok => 2
      | .shortRead => 3
      | .framingError => 4
      | .transportError => 5 := by
  cases code <;> rfl

/-- The numbers of STATE (10_state.md R19). -/
theorem phaseBits_toNat (p : Phase) : (phaseBits p).toNat = match p with | .idle => 0 | .tx => 1 | .rx => 2 := by
  cases p <;> rfl

theorem channelBit_toNat (c : Channel) : (channelBit c).toNat = match c with | .ch1 => 0 | .ch2 => 1 := by
  cases c <;> rfl

/-- Settles O30: the fields of `status_toNat` do not overlap. -/
theorem statusWordLayout : Obligations.StatusWordLayout := by
  intro s
  have hword := status_toNat s
  have hphase : (phaseBits s.phase).toNat < 4 := (phaseBits s.phase).isLt
  have hcnt : s.rxCnt.toNat < 8192 := s.rxCnt.isLt
  have hlch : (channelBit s.lch).toNat < 2 := (channelBit s.lch).isLt
  have hcode : (codeBits s.code).toNat < 8 := (codeBits s.code).isLt
  refine ⟨.trans ?_ (codeBits_toNat s.code), .trans ?_ (channelBit_toNat s.lch), ?_,
    .trans ?_ (phaseBits_toNat s.phase), ?_⟩
  all_goals
    simp only [bitsAt]
    omega

/-! ## Responses (30_encoding.md R50, R53) -/

/-- The transport events are the instructions with a phase (30_encoding.md R53). -/
theorem isHostOp_eq_isNone_meaningPhase (i : Instr) : isHostOp i = (meaningPhase i).isNone := by
  cases i <;> rfl

theorem isHostOp_of_isHostRead {i : Instr} (h : isHostRead i = true) : isHostOp i = true := by
  cases i with
  | txacc | txerr | rxb b | rxto => simp [isHostRead] at h
  | _ => rfl

/-- A host operation answers one response and nothing else, a transport event no response. -/
theorem exec_responses {i : Instr} {s t : State} (h : exec i s = .next t) :
    (isHostOp i = true ∧ ∃ r, t.out = [.resp r]) ∨ (isHostOp i = false ∧ ∀ r, .resp r ∉ t.out) := by
  cases exec_effect h with
  | tb c i v hi => exact .inl ⟨by rcases hi with rfl | rfl <;> rfl, _, rfl⟩
  | trig c i v hi => exact .inl ⟨by rcases hi with ⟨rfl, -⟩ | ⟨rfl, -⟩ <;> rfl, _, rfl⟩
  | edge c => exact .inl ⟨rfl, _, rfl⟩
  | read i v hi => exact .inl ⟨isHostOp_of_isHostRead hi, _, rfl⟩
  | busy c hp => exact .inl ⟨rfl, _, rfl⟩
  | range k hk => exact .inl ⟨rfl, _, rfl⟩
  | noData k hk hc => exact .inl ⟨rfl, _, rfl⟩
  | cap c hp => exact .inl ⟨rfl, _, rfl⟩
  | ignored i p hi hp => exact .inr ⟨by rw [isHostOp_eq_isNone_meaningPhase, hi]; rfl, by simp⟩
  | txacc hp hx => exact .inr ⟨rfl, by simp⟩
  | txerr hp => exact .inr ⟨rfl, by simp⟩
  | rxb b hp hx => exact .inr ⟨rfl, by simp⟩
  | rxbLast b hp hx code hc => exact .inr ⟨rfl, by simp⟩
  | rxto hp => exact .inr ⟨rfl, by simp⟩

/-- Every host operation completes, with one response. -/
theorem exec_hostOp {i : Instr} (s : State) (hi : isHostOp i = true) :
    ∃ t r, exec i s = .next t ∧ t.out = [.resp r] := by
  obtain ⟨t, ht⟩ : ∃ t, exec i s = .next t :=
    exec_next (by rintro rfl; simp [isHostOp] at hi) (by rintro b rfl; simp [isHostOp] at hi)
  rcases exec_responses ht with ⟨-, r, hr⟩ | ⟨hnot, -⟩
  · exact ⟨t, r, ht, hr⟩
  · simp [hi] at hnot

/-- Every host word is answered by one response, legal or not. -/
theorem step_hostWord {w : HostWord} {s : State} {es : List Event} (hp : paramsLegal s.params = true)
    (hs : s.inbox = .word (.host w) :: es) : ∃ t r, step s = .next t ∧ t.out = [.resp r] := by
  cases hd : decode (.host w) with
  | ok i =>
    rw [step_of_decode_ok hp hs hd]
    exact exec_hostOp _ (isHostOp_of_decode_host hd)
  | error r => exact ⟨_, _, step_of_decode_error hp hs hd, rfl⟩

theorem exec_settingsOp_ack {i : Instr} (s : State) (hi : isSettingsOp i = true) :
    ∃ t v, exec i s = .next t ∧ t.out = [.resp (.ack v)] := by
  cases i with
  | cap c | rdst | rdsmp k | txacc | txerr | rxb b | rxto => simp [isSettingsOp] at hi
  | _ => exact ⟨_, _, rfl, rfl⟩

/-- The operations with no value to return acknowledge with 0. -/
theorem ack_zero_of_mutator_or_cap {i : Instr} {s t : State} {v : Value} (hi : isMutator i = true ∨ isCap i = true)
    (h : exec i s = .next t) (hout : t.out = [.resp (.ack v)]) : v = 0#32 := by
  cases exec_effect h with
  | read i u hr => cases i <;> simp [isHostRead, isMutator, isCap] at hr hi
  | tb c i u hi => simpa using hout.symm
  | trig c i u hi => simpa using hout.symm
  | edge c => simpa using hout.symm
  | cap c hp => simpa using hout.symm
  | _ => simp at hout

/-- The word of ACK(v) is `v`. -/
theorem respWord_ack_toNat (v : Value) : (respWord (.ack v)).toNat = v.toNat :=
  (BitVec.toNat_append 0#1 v).trans (by simp)

/-- The word of REJ(r) is the reason code with bit 32 set. -/
theorem respWord_rej_toNat (r : Reason) : (respWord (.rej r)).toNat = 2 ^ 32 + (reasonCode r).toNat := by
  cases r <;> rfl

/-- Settles O41: `exec_hostOp` and `step_hostWord` for the one response, the response words as numbers for their bits. -/
theorem oneResponsePerHostOperation : Obligations.OneResponsePerHostOperation := by
  refine ⟨fun i s => exec_hostOp s, fun w s es => step_hostWord, fun i s => exec_settingsOp_ack s,
    fun i s t v => ack_zero_of_mutator_or_cap, fun v => ?_, fun r => ?_⟩
  · simp only [bitsAt, respWord_ack_toNat]
    omega
  · simp only [bitsAt, respWord_rej_toNat]
    omega

/-! ## Rejects (30_encoding.md R51) -/

/-- Settles O42: of everything an instruction can do, three cases answer a reject, and each changes the outputs
alone. -/
theorem rejectsChangeNothing : Obligations.RejectsChangeNothing := by
  refine ⟨fun i s t r h hr => ?_, fun w r => stepRejects_illegal, rfl, rfl, rfl, rfl⟩
  cases exec_effect h with
  | busy c hp =>
    obtain rfl : r = .busy := by simpa using hr
    exact ⟨allKept_withOut s _, rfl, ⟨c, rfl⟩, hp⟩
  | range k hk =>
    obtain rfl : r = .range := by simpa using hr
    exact ⟨allKept_withOut s _, rfl, k, rfl, hk⟩
  | noData k hk hc =>
    obtain rfl : r = .noData := by simpa using hr
    exact ⟨allKept_withOut s _, rfl, ⟨k, rfl, hk⟩, hc⟩
  | _ => simp at hr

/-! ## Ignored events (30_encoding.md R53) -/

/-- A transport event outside its phase empties the outputs and does nothing else. -/
theorem exec_out_of_phase {i : Instr} {p : Phase} {s : State} (hi : meaningPhase i = some p) (hp : s.phase ≠ p) :
    exec i s = .next (withOut s []) := by
  cases i with
  | txacc | txerr | rxb b | rxto =>
    obtain rfl := Option.some.inj hi
    exact if_neg hp
  | _ => simp [meaningPhase] at hi

/-- Settles O44: `exec_out_of_phase`, and `exec_responses` for an instruction with a phase. -/
theorem eventsOutOfPhaseIgnored : Obligations.EventsOutOfPhaseIgnored := by
  refine ⟨fun i p s hi hp => ⟨_, exec_out_of_phase hi hp, rfl, allKept_withOut s _⟩, fun i p s t r hi h => ?_⟩
  rcases exec_responses h with ⟨hop, -⟩ | ⟨-, hnone⟩
  · rw [isHostOp_eq_isNone_meaningPhase, hi] at hop
    simp at hop
  · exact hnone r

end Sys2Proof.Proofs.Encoding
end

section
/-! PROOFS. The family 40_settings.md: the eight settings operations, each with its words, its answer, the register it
writes and what it leaves. -/

namespace Sys2Proof.Proofs.Settings

open Sys2Proof Sys2Proof.Machine Sys2Proof.Safety Sys2Proof.Proofs.Encoding

/-! ## Words, answers and frames -/

/-- Only RDSMP uses IDX; with any other operation code a non-zero IDX makes a word illegal (30_encoding.md R49). -/
theorem nonzeroIdxIllegal {op : Nat} (h : op ≠ 0xB) : NonzeroIdxIllegal op := by
  intro w hop hidx
  have hillegal : ¬ ∃ i, decode (.host w) = .ok i := by
    rw [decode_host_ok_iff]
    omega
  obtain ⟨r, hr⟩ := (decode_error_iff _).mpr hillegal
  exact stepRejects_illegal hr

/-- Replacing the settings of channel `c` leaves everything else. -/
theorem restKept_setSettings (s : State) (c : Channel) (v : Settings) (o : List Output) :
    RestKept c s (withOut (setSettings s c v) o) := by
  refine ⟨fun d hd => ?_, by simp [CaptureKept], fun a => by simp, fun k => by simp, by simp [EnvKept]⟩
  rw [settings_withOut, settings_setSettings_other s v hd]

/-- How every mutator ends: the settings of one channel are replaced and the answer is ACK. -/
theorem respond_setSettings (s : State) (c : Channel) (v : Settings) (a : Value) :
    ∃ t, respond (setSettings s c v) a = .next t ∧ t.out = [.resp (.ack a)] ∧ settings t c = v ∧ RestKept c s t :=
  ⟨_, rfl, rfl, by simp, restKept_setSettings s c v _⟩

/-! ## The new values, by case -/

theorem incTb_toNat_of_lt {t : BitVec 3} (h : t.toNat < 6) : (incTb t).toNat = t.toNat + 1 := by
  rw [incTb_toNat, if_pos h]

theorem incTb_of_le {t : BitVec 3} (h : 6 ≤ t.toNat) : incTb t = t := if_neg (Nat.not_lt.mpr h)

theorem edgeBit_toggleEdge (e : Edge) : (edgeBit (toggleEdge e)).toNat = 1 - (edgeBit e).toNat := by
  cases e <;> rfl

theorem incTrig_saturate_toNat {v : BitVec 13} (h : v.toNat < 3968) :
    (incTrig .saturate v).toNat = min (v.toNat + 256) 3968 := by
  rw [incTrig_toNat, if_pos h]

theorem incTrig_literal_toNat {v : BitVec 13} (h : v.toNat < 3968) :
    (incTrig .literal v).toNat = v.toNat + 256 := by
  rw [incTrig_toNat, if_pos h]

/-- On the grid 128 + 256k the policies agree: the level below 3968 is at most 3712. -/
theorem incTrig_grid_toNat (p : TrigPolicy) {v : BitVec 13} (h : v.toNat < 3968) (hgrid : v.toNat % 256 = 128) :
    (incTrig p v).toNat = v.toNat + 256 := by
  cases p with
  | saturate => rw [incTrig_saturate_toNat h]; omega
  | literal => exact incTrig_literal_toNat h

theorem incTrig_toNat_le (p : TrigPolicy) {v : BitVec 13} (h : v.toNat < 3968) : (incTrig p v).toNat ≤ 4223 := by
  cases p with
  | saturate => rw [incTrig_saturate_toNat h]; omega
  | literal => rw [incTrig_literal_toNat h]; omega

theorem incTrig_of_le (p : TrigPolicy) {v : BitVec 13} (h : 3968 ≤ v.toNat) : incTrig p v = v :=
  if_neg (Nat.not_lt.mpr h)

/-- `max(TRIG - 256, 128)` over the integers, as 40_settings.md R68 writes it. -/
theorem decTrig_saturate_toInt {v : BitVec 13} (h : 128 < v.toNat) :
    ((decTrig .saturate v).toNat : Int) = max ((v.toNat : Int) - 256) 128 := by
  rw [decTrig_saturate_toNat, if_pos h]
  omega

theorem decTrig_literal_toNat_add {v : BitVec 13} (h : 256 ≤ v.toNat) :
    (decTrig .literal v).toNat + 256 = v.toNat := by
  rw [decTrig_literal_toNat v (.inr h), if_pos (by omega)]
  omega

/-- On the grid 128 + 256k the policies agree: the level above 128 is at least 384. -/
theorem decTrig_grid_toNat_add (p : TrigPolicy) {v : BitVec 13} (h : 128 < v.toNat) (hgrid : v.toNat % 256 = 128) :
    (decTrig p v).toNat + 256 = v.toNat := by
  cases p with
  | saturate =>
    have := decTrig_saturate_toInt h
    omega
  | literal => exact decTrig_literal_toNat_add (by omega)

theorem decTrig_of_le (p : TrigPolicy) {v : BitVec 13} (h : v.toNat ≤ 128) : decTrig p v = v :=
  if_neg (Nat.not_lt.mpr h)

/-! ## The mutators (R63, R64, R66 to R68) -/

/-- Settles O15: TB is replaced by `incTb`. -/
theorem increaseTimebase : Obligations.IncreaseTimebase := by
  refine ⟨rfl, rfl, nonzeroIdxIllegal (by decide), fun c s => ?_⟩
  obtain ⟨t, ht, hout, hset, hrest⟩ :=
    respond_setSettings s c { settings s c with tb := incTb (settings s c).tb } 0#32
  refine ⟨t, ht, hout, ?_⟩
  rw [hset]
  exact ⟨incTb_toNat_of_lt, incTb_of_le, rfl, rfl, hrest⟩

/-- Settles O16: TB is replaced by `decTb`, the subtraction that stops at 0. -/
theorem decreaseTimebase : Obligations.DecreaseTimebase := by
  refine ⟨rfl, rfl, nonzeroIdxIllegal (by decide), fun c s => ?_⟩
  obtain ⟨t, ht, hout, hset, hrest⟩ :=
    respond_setSettings s c { settings s c with tb := decTb (settings s c).tb } 0#32
  refine ⟨t, ht, hout, ?_⟩
  rw [hset, decTb_toNat]
  exact ⟨Nat.sub_add_cancel, fun h => by rw [h], rfl, rfl, hrest⟩

/-- TGLEDGE in full: EDGE is replaced by `toggleEdge`. -/
theorem exec_tgledge (c : Channel) (s : State) :
    ∃ t, exec (.tgledge c) s = .next t ∧ t.out = [.resp (.ack 0#32)] ∧
      settings t c = { settings s c with edge := toggleEdge (settings s c).edge } ∧ RestKept c s t :=
  respond_setSettings s c _ 0#32

/-- Settles O18: `exec_tgledge`, for the involution applied a second time. -/
theorem toggleTriggerEdge : Obligations.ToggleTriggerEdge := by
  refine ⟨rfl, rfl, nonzeroIdxIllegal (by decide), fun c s => ?_⟩
  obtain ⟨t, ht, hout, hset, hrest⟩ := exec_tgledge c s
  obtain ⟨u, hu, -, huset, -⟩ := exec_tgledge c t
  refine ⟨t, ht, hout, ?_, by rw [hset], by rw [hset], hrest, u, hu, ?_⟩
  · rw [hset, edgeBit_toggleEdge]
  · rw [huset, hset, toggleEdge_toggleEdge]

/-- Settles O19: TRIG is replaced by `incTrig` under the policy of the state. -/
theorem increaseTriggerLevel : Obligations.IncreaseTriggerLevel := by
  refine ⟨rfl, rfl, nonzeroIdxIllegal (by decide), fun c s => ?_⟩
  obtain ⟨t, ht, hout, hset, hrest⟩ :=
    respond_setSettings s c { settings s c with trig := incTrig s.params.trigPolicy (settings s c).trig } 0#32
  refine ⟨t, ht, hout, ?_⟩
  rw [hset]
  refine ⟨fun h => ⟨fun hp => ?_, fun hp => ?_, incTrig_grid_toNat _ h, incTrig_toNat_le _ h⟩,
    incTrig_of_le _, rfl, rfl, hrest⟩
  · rw [hp, incTrig_saturate_toNat h]
  · rw [hp, incTrig_literal_toNat h]

/-- Settles O20: TRIG is replaced by `decTrig` under the policy of the state. -/
theorem decreaseTriggerLevel : Obligations.DecreaseTriggerLevel := by
  refine ⟨rfl, rfl, nonzeroIdxIllegal (by decide), fun c s => ?_⟩
  obtain ⟨t, ht, hout, hset, hrest⟩ :=
    respond_setSettings s c { settings s c with trig := decTrig s.params.trigPolicy (settings s c).trig } 0#32
  refine ⟨t, ht, hout, ?_⟩
  rw [hset]
  refine ⟨fun h => ⟨fun hp => ?_, fun hp h256 => ?_, decTrig_grid_toNat_add _ h⟩, decTrig_of_le _, rfl, rfl, hrest⟩
  · rw [hp, decTrig_saturate_toInt h]
  · rw [hp, decTrig_literal_toNat_add h256]

/-! ## The reads (R65, R69, R70) -/

/-- Settles O17: the answer is TB widened, and a response changes the outputs alone. -/
theorem readTimebase : Obligations.ReadTimebase := by
  refine ⟨rfl, rfl, nonzeroIdxIllegal (by decide), fun c s => ?_⟩
  have hv : ((settings s c).tb.setWidth 32).toNat = (settings s c).tb.toNat :=
    BitVec.toNat_setWidth_of_le (by decide)
  exact ⟨_, _, rfl, rfl, hv, fun hinv => hv.trans_le (hinv.tb_range c), allKept_withOut s _⟩

/-- Settles O22: the answer is TRIG widened. -/
theorem readTriggerLevel : Obligations.ReadTriggerLevel :=
  ⟨rfl, rfl, nonzeroIdxIllegal (by decide), fun c s =>
    ⟨_, _, rfl, rfl, BitVec.toNat_setWidth_of_le (by decide), allKept_withOut s _⟩⟩

/-- Settles O23: the answer is `edgeBit` widened, by cases on the edge. -/
theorem readTriggerEdge : Obligations.ReadTriggerEdge := by
  refine ⟨rfl, rfl, nonzeroIdxIllegal (by decide), fun c s => ⟨_, _, rfl, rfl, ?_, allKept_withOut s _⟩⟩
  cases (settings s c).edge with
  | rising => rfl
  | falling => rfl

end Sys2Proof.Proofs.Settings
end

section
/-! PROOFS. The family 41_capture.md: CAP, RDST and RDSMP, each with its words and its answer in every state, and how
long the samples stay. -/

namespace Sys2Proof.Proofs.Capture

open Sys2Proof Sys2Proof.Machine Sys2Proof.Safety Sys2Proof.Proofs.Encoding Sys2Proof.Proofs.Settings

/-! ## Illegal words (30_encoding.md R49) -/

/-- A host word that is not legal(w) is rejected with ILLEGAL (30_encoding.md R49). -/
theorem stepRejects_of_not_legal {w : HostWord}
    (h : ¬ ((1 ≤ bitsAt w 0 4 ∧ bitsAt w 0 4 ≤ 0xB) ∧ (bitsAt w 0 4 = 0xB ∨ bitsAt w 5 11 = 0) ∧
      (bitsAt w 0 4 < 0xA ∨ bitsAt w 4 1 = 0))) : StepRejects w .illegal := by
  obtain ⟨r, hr⟩ := (decode_error_iff _).mpr (mt (decode_host_ok_iff w).mp h)
  exact stepRejects_illegal hr

/-! ## RDST (41_capture.md R73) -/

/-- The RXCNT field of STATUS is RX_CNT (30_encoding.md R60). -/
theorem bitsAt_status_rxCnt (s : State) : bitsAt (status s) 4 13 = s.rxCnt.toNat := by
  obtain ⟨-, -, hcnt, -, -⟩ := statusWordLayout s
  exact hcnt

/-- Settles O31: the answer is `status`, and the counts that a capture leaves are the clauses of the invariants about
them. -/
theorem readStatus : Obligations.ReadStatus := by
  refine ⟨rfl, fun w hop hfield => stepRejects_of_not_legal (by omega), fun s => ?_⟩
  refine ⟨_, rfl, rfl, allKept_withOut s _, fun hinv => ?_⟩
  rw [bitsAt_status_rxCnt]
  refine ⟨fun hc => ?_, fun hc => ?_, fun hc => ?_⟩
  · have := hinv.short_count hc
    omega
  · exact hc.elim hinv.ok_count hinv.framing_count
  · obtain ⟨hcnt, -⟩ := hinv.transport_count hc
    simp [hcnt]

/-! ## RDSMP by case (41_capture.md R74) -/

/-- RDSMP of a sample that exists answers REJ(NODATA) while CODE is not OK. -/
theorem exec_rdsmp_noData {i : Nat} {s : State} (hi : i < 2000) (hc : s.code ≠ .ok) :
    exec (.rdsmp i) s = .next (withOut s [.resp (.rej .noData)]) := by
  rcases execRdsmp_cases i s with ⟨hrange, -⟩ | ⟨-, hok, -⟩ | ⟨-, -, e⟩
  · omega
  · exact absurd hok hc
  · exact e

/-- RDSMP of a sample that exists answers it when CODE is OK. -/
theorem exec_rdsmp_sample {i : Nat} {s : State} (hi : i < 2000) (hc : s.code = .ok) :
    exec (.rdsmp i) s = .next (withOut s [.resp (.ack ((sample s i).setWidth 32))]) := by
  rcases execRdsmp_cases i s with ⟨hrange, -⟩ | ⟨-, -, e⟩ | ⟨-, hnot, -⟩
  · omega
  · exact e
  · exact absurd hc hnot

/-! ## CAP by case (41_capture.md R72) -/

/-- CAP answers REJ(BUSY) while a capture is in flight. -/
theorem exec_cap_busy (c : Channel) {s : State} (h : s.phase ≠ .idle) :
    exec (.cap c) s = .next (withOut s [.resp (.rej .busy)]) := if_neg h

/-- CAP in IDLE latches the request and answers ACK(0). -/
theorem exec_cap_idle (c : Channel) {s : State} (h : s.phase = .idle) :
    exec (.cap c) s = .next (withOut (latchCapture s c (build s c)) [.resp (.ack 0#32)]) := if_pos h

/-- Settles O29: both cases of CAP; after an accepted one CODE is PENDING, so that RDSMP answers NODATA. -/
theorem captureRequestAcceptedOrBusy : Obligations.CaptureRequestAcceptedOrBusy := by
  refine ⟨rfl, rfl, nonzeroIdxIllegal (by decide), fun c s hp => ?_, fun c s hp => ?_⟩
  · exact ⟨_, exec_cap_busy c hp, rfl, allKept_withOut s _⟩
  · have hpending : (withOut (latchCapture s c (build s c)) [.resp (.ack 0#32)]).code ≠ .ok := by simp
    exact ⟨_, exec_cap_idle c hp, rfl, fun _ _ => cmdByte_latchCapture s c (build s c),
      cmdLen_latchCapture_toNat s c, rfl, rfl, rfl, rfl, rfl, ⟨rfl, rfl⟩, fun _ => rfl, ⟨rfl, rfl⟩,
      fun _ hi => ⟨_, exec_rdsmp_noData hi hpending, rfl⟩⟩

/-! ## The samples stay (41_capture.md R74) -/

/-- A sample is read from FB alone (42_framer.md R82). -/
theorem sample_of_frameKept {s t : State} (h : FrameKept s t) (i : Nat) : sample t i = sample s i := by
  simp only [sample, h _]

/-- In IDLE every instruction completes: both faults need a capture in flight. -/
theorem exec_idle_next (i : Instr) {s : State} (h : s.phase = .idle) : ∃ t, exec i s = .next t :=
  exec_next (fun _ => by simp [h]) (fun _ _ => by simp [h])

/-- In IDLE no instruction but CAP changes STATE, CODE or FB: the transport events that do need a capture in flight. -/
theorem exec_idle_keeps_capture {i : Instr} {s t : State} (h : exec i s = .next t) (hp : s.phase = .idle)
    (hi : isCap i = false) : t.phase = s.phase ∧ t.code = s.code ∧ FrameKept s t := by
  cases exec_effect h with
  | tb => simp [setTb, FrameKept]
  | trig => simp [setTrig, FrameKept]
  | edge => simp [setEdge, FrameKept]
  | read | busy | range | noData | ignored => exact ⟨rfl, rfl, fun _ => rfl⟩
  | cap c => simp [isCap] at hi
  | txacc hbusy | txerr hbusy | rxb b hbusy | rxbLast b hbusy | rxto hbusy => simp [hp] at hbusy

/-- Settles O32: the three cases of RDSMP, and `exec_idle_keeps_capture` for the samples. -/
theorem readSample : Obligations.ReadSample := by
  refine ⟨fun i => decode_rdsmp_word, fun w hop hch => stepRejects_of_not_legal (by omega), fun i s hi => ?_,
    fun i s hi hc => ?_, fun i s hi hc => ?_, fun j s hc hp hj => ?_⟩
  · exact ⟨_, exec_rdsmp_range hi s, rfl, allKept_withOut s _⟩
  · exact ⟨_, exec_rdsmp_noData hi hc, rfl, allKept_withOut s _⟩
  · exact ⟨_, _, exec_rdsmp_sample hi hc, rfl, BitVec.toNat_setWidth_of_le (by decide), allKept_withOut s _⟩
  · obtain ⟨t, ht⟩ := exec_idle_next j hp
    obtain ⟨hphase, hcode, hframe⟩ := exec_idle_keeps_capture ht hp hj
    exact ⟨t, ht, hcode.trans hc, hphase.trans hp, sample_of_frameKept hframe⟩

end Sys2Proof.Proofs.Capture
end

section
/-! PROOFS. The family 42_framer.md: the sample view of FB, the four transport events in and out of their phase, and the
runs of the write phase. -/

namespace Sys2Proof.Proofs.Framer

open Sys2Proof Sys2Proof.Machine Sys2Proof.Safety Sys2Proof.Proofs.Memory Sys2Proof.Proofs.Encoding
  Sys2Proof.Proofs.Capture

/-! ## Samples (42_framer.md R82) -/

/-- The formula of R82 without masks, on the two bytes of pair `i`. -/
theorem sample_toNat (s : State) (i : Nat) :
    (sample s i).toNat = (fbByte s (2 * i + 2)).toNat % 128 + (fbByte s (2 * i + 3)).toNat % 32 * 128 :=
  unpack_toNat _ _

/-- Settles O33: the two summands of `sample_toNat` are seven and five bits wide and do not overlap. -/
theorem sampleFromItsPair : Obligations.SampleFromItsPair := by
  refine ⟨fun s i _ => ?_, fun s t i _ hlo hhi => BitVec.eq_of_toNat_eq ?_⟩
  · have hs := sample_toNat s i
    refine ⟨hs, ?_, ?_, by omega⟩ <;> simp only [bitsAt] <;> omega
  · simp only [bitsAt] at hlo hhi
    rw [sample_toNat, sample_toNat]
    omega

/-! ## The transport events in their phase (42_framer.md R75 to R78) -/

/-- TXACC in TX hands over the byte at TX_IDX. -/
theorem exec_txacc_tx {s : State} (hp : s.phase = .tx) (hx : s.txIdx.toNat < 10) :
    exec .txacc s = .next (withOut (advanceTx s) [.sent (cmdByte s s.txIdx.toNat)]) := by
  rcases execTxacc_cases s with ⟨-, -, e⟩ | ⟨-, hbeyond, -⟩ | ⟨hnot, -⟩
  · exact e
  · omega
  · exact absurd hp hnot

/-- TXERR in TX ends the capture. -/
theorem exec_txerr_tx {s : State} (hp : s.phase = .tx) : exec .txerr s = .next (finish s .transportError) := if_pos hp

/-- RXB in RX before the 4003rd byte only stores its byte. -/
theorem exec_rxb_more (b : Byte) {s : State} (hp : s.phase = .rx) (hc : s.rxCnt.toNat < 4002) :
    exec (.rxb b) s = .next (withOut (storeFrameByte s b) []) := by
  rcases execRxb_cases b s with ⟨-, hlast, -⟩ | ⟨-, -, e⟩ | ⟨-, hbeyond, -⟩ | ⟨hnot, -⟩
  · omega
  · exact e
  · omega
  · exact absurd hp hnot

/-- RXB in RX with the 4003rd byte stores it and completes the frame. -/
theorem exec_rxb_last (b : Byte) {s : State} (hp : s.phase = .rx) (hc : s.rxCnt.toNat = 4002) :
    exec (.rxb b) s = .next (completeFrame (storeFrameByte s b)) := by
  rcases execRxb_cases b s with ⟨-, -, e⟩ | ⟨-, hmore, -⟩ | ⟨-, hbeyond, -⟩ | ⟨hnot, -⟩
  · exact e
  · omega
  · omega
  · exact absurd hp hnot

/-- RXTO in RX ends the capture. -/
theorem exec_rxto_rx {s : State} (hp : s.phase = .rx) : exec .rxto s = .next (finish s .shortRead) := if_pos hp

/-! ## TXACC (42_framer.md R75) -/

/-- What handing over request bytes leaves: everything but STATE and TX_IDX. -/
def SendingKept (s t : State) : Prop :=
  t.code = s.code ∧ t.lch = s.lch ∧ t.cmdLen = s.cmdLen ∧ t.rxCnt = s.rxCnt ∧
    SettingsKept s t ∧ FrameKept s t ∧ CmdKept s t ∧ EnvKept s t

theorem SendingKept.refl (s : State) : SendingKept s s :=
  ⟨rfl, rfl, rfl, rfl, ⟨rfl, rfl⟩, fun _ => rfl, fun _ => rfl, rfl, rfl⟩

theorem sendingKept_advanceTx (s : State) (o : List Output) : SendingKept s (withOut (advanceTx s) o) :=
  ⟨rfl, rfl, rfl, rfl, ⟨rfl, rfl⟩, fun _ => rfl, fun _ => rfl, rfl, rfl⟩

theorem SendingKept.trans {s t u : State} (h : SendingKept s t) (h' : SendingKept t u) : SendingKept s u := by
  obtain ⟨hcode, hlch, hlen, hcnt, ⟨hch1, hch2⟩, hfb, hcmd, hparams, hinbox⟩ := h
  obtain ⟨hcode', hlch', hlen', hcnt', ⟨hch1', hch2'⟩, hfb', hcmd', hparams', hinbox'⟩ := h'
  exact ⟨hcode'.trans hcode, hlch'.trans hlch, hlen'.trans hlen, hcnt'.trans hcnt,
    ⟨hch1'.trans hch1, hch2'.trans hch2⟩, fun a => (hfb' a).trans (hfb a), fun k => (hcmd' k).trans (hcmd k),
    hparams'.trans hparams, hinbox'.trans hinbox⟩

/-- The comparison that opens the read phase, on numbers: at an index of CMD_BUF the sum does not wrap. -/
theorem txIdx_succ_eq_cmdLen_iff {s : State} (hx : s.txIdx.toNat < 10) :
    s.txIdx + 1#4 = s.cmdLen ↔ s.txIdx.toNat + 1 = s.cmdLen.toNat := by
  rw [← advanceTx_txIdx_toNat hx, advanceTx_txIdx, BitVec.toNat_inj]

theorem advanceTx_phase_last {s : State} (hx : s.txIdx.toNat < 10) (hlast : s.txIdx.toNat + 1 = s.cmdLen.toNat) :
    (advanceTx s).phase = .rx :=
  if_pos ((txIdx_succ_eq_cmdLen_iff hx).mpr hlast)

theorem advanceTx_phase_more {s : State} (hx : s.txIdx.toNat < 10) (hmore : s.txIdx.toNat + 1 ≠ s.cmdLen.toNat) :
    (advanceTx s).phase = s.phase :=
  if_neg (mt (txIdx_succ_eq_cmdLen_iff hx).mp hmore)

/-- Settles O34: TXACC by phase, and the two cases of `advanceTx`. -/
theorem transportTakesRequestByte : Obligations.TransportTakesRequestByte := by
  refine ⟨fun s hp hx => ?_, fun s hp => ⟨_, exec_out_of_phase rfl hp, rfl, allKept_withOut s _⟩⟩
  exact ⟨_, exec_txacc_tx hp hx, rfl, advanceTx_txIdx_toNat hx, advanceTx_phase_last hx,
    fun hmore => (advanceTx_phase_more hx hmore).trans hp, sendingKept_advanceTx s _⟩

/-! ## Runs of the write phase -/

/-- A run followed by another. -/
theorem runInstrs_append {is js : List Instr} {s t u : State} {o o' : List Output}
    (hi : runInstrs is s = some (t, o)) (hj : runInstrs js t = some (u, o')) :
    runInstrs (is ++ js) s = some (u, o ++ o') := by
  induction is generalizing s o with
  | nil =>
    obtain ⟨rfl, rfl⟩ : s = t ∧ [] = o := by simpa [runInstrs] using hi
    exact hj
  | cons i is ih =>
    cases hx : exec i s with
    | next v =>
      obtain ⟨o₁, hrest, rfl⟩ : ∃ o₁, runInstrs is v = some (t, o₁) ∧ v.out ++ o₁ = o := by
        simpa [runInstrs, hx] using hi
      rw [List.append_assoc]
      exact runInstrs_cons hx (ih hrest)
    | fault r => simp [runInstrs, hx] at hi
    | refused r => simp [runInstrs, hx] at hi

/-- STATE of a capture whose response has not ended: TX while request bytes are left, then RX. -/
def sendPhase (s : State) : Phase := if s.txIdx.toNat < s.cmdLen.toNat then .tx else .rx

/-- While request bytes are left, TXACC hands over the next one and STATE goes on following the counts. -/
theorem exec_txacc_sends {s : State} (hp : s.phase = sendPhase s) (hleft : s.txIdx.toNat < s.cmdLen.toNat)
    (hsize : s.cmdLen.toNat ≤ 10) :
    ∃ t, exec .txacc s = .next t ∧ t.out = [.sent (cmdByte s s.txIdx.toNat)] ∧ t.txIdx.toNat = s.txIdx.toNat + 1 ∧
      t.phase = sendPhase t ∧ SendingKept s t := by
  have htx : s.phase = .tx := hp.trans (if_pos hleft)
  have hx : s.txIdx.toNat < 10 := by omega
  have hidx := advanceTx_txIdx_toNat hx
  refine ⟨_, exec_txacc_tx htx hx, rfl, hidx, ?_, sendingKept_advanceTx s _⟩
  rw [withOut_phase, sendPhase, withOut_txIdx, withOut_cmdLen, advanceTx_cmdLen, hidx]
  by_cases hlast : s.txIdx.toNat + 1 = s.cmdLen.toNat
  · rw [advanceTx_phase_last hx hlast, if_neg (by omega)]
  · rw [advanceTx_phase_more hx hlast, htx, if_pos (by omega)]

/-- One TXACC per byte hands over the bytes that CMD_BUF holds from TX_IDX on, in order. -/
theorem runInstrs_txacc (r : List Byte) (s : State) (hp : s.phase = sendPhase s)
    (hlen : s.txIdx.toNat + r.length ≤ s.cmdLen.toNat) (hsize : s.cmdLen.toNat ≤ 10)
    (hr : ∀ k b, r[k]? = some b → cmdByte s (s.txIdx.toNat + k) = b) :
    ∃ t, runInstrs (List.replicate r.length .txacc) s = some (t, r.map .sent) ∧
      t.txIdx.toNat = s.txIdx.toNat + r.length ∧ t.phase = sendPhase t ∧ SendingKept s t := by
  induction r generalizing s with
  | nil => exact ⟨s, rfl, rfl, hp, SendingKept.refl s⟩
  | cons b r ih =>
    rw [List.length_cons] at hlen
    obtain ⟨u, hu, huout, huidx, huphase, hukept⟩ := exec_txacc_sends hp (by omega) hsize
    have hb : cmdByte s s.txIdx.toNat = b := hr 0 b rfl
    have ⟨_, _, hulen, _, _, _, hucmd, _⟩ := hukept
    have hur : ∀ k d, r[k]? = some d → cmdByte u (u.txIdx.toNat + k) = d := by
      intro k d hk
      rw [hucmd, show u.txIdx.toNat + k = s.txIdx.toNat + (k + 1) by omega]
      exact hr (k + 1) d hk
    obtain ⟨t, ht, htidx, htphase, htkept⟩ := ih u huphase (by rw [hulen]; omega) (by rw [hulen]; exact hsize) hur
    have hrun := runInstrs_cons hu ht
    rw [huout, hb] at hrun
    exact ⟨t, hrun, by rw [List.length_cons]; omega, htphase, hukept.trans htkept⟩

/-- An accepted CAP and `k` TXACC hand over the first `k` bytes of the request. -/
theorem runInstrs_cap_txacc (c : Channel) {s : State} {k : Nat} (hp : s.phase = .idle)
    (hk : k ≤ (build s c).length) :
    ∃ t, runInstrs (.cap c :: List.replicate k .txacc) s =
        some (t, .resp (.ack 0#32) :: ((build s c).take k).map .sent) ∧
      t.txIdx.toNat = k ∧ t.phase = sendPhase t ∧ SendingKept (latchCapture s c (build s c)) t := by
  obtain ⟨hmin, hmax⟩ := build_length_bounds s c
  have hlen := cmdLen_latchCapture_toNat s c
  have hcount : ((build s c).take k).length = k := List.length_take_of_le hk
  have hphase : (latchCapture s c (build s c)).phase = sendPhase (latchCapture s c (build s c)) :=
    (if_pos (by simp only [latchCapture_txIdx, hlen, BitVec.toNat_ofNat]; omega)).symm
  have hbytes : ∀ j b, ((build s c).take k)[j]? = some b → cmdByte (latchCapture s c (build s c)) j = b := by
    intro j b hj
    obtain ⟨-, hj⟩ : j < k ∧ (build s c)[j]? = some b := by simpa [List.getElem?_take] using hj
    exact cmdByte_latchCapture s c (build s c) hj
  obtain ⟨t, ht, htidx, htphase, htkept⟩ := runInstrs_txacc ((build s c).take k)
    (withOut (latchCapture s c (build s c)) [.resp (.ack 0#32)]) hphase
    (by rw [hcount, withOut_cmdLen, hlen]; simpa using hk) (hlen.trans_le hmax) (by simpa using hbytes)
  rw [hcount] at ht
  exact ⟨t, runInstrs_cons (exec_cap_idle c hp) ht, by simpa [hcount] using htidx, htphase, htkept⟩

/-! ## TXERR (42_framer.md R76) -/

/-- Settles O35: TXERR by phase; after fewer TXACC than the request has bytes the block is still in TX. -/
theorem writeFailureEndsCapture : Obligations.WriteFailureEndsCapture := by
  refine ⟨fun s hp => ?_, fun s hp => ⟨_, exec_out_of_phase rfl hp, rfl, allKept_withOut s _⟩,
    fun c s k hp hk => ?_⟩
  · exact ⟨_, exec_txerr_tx hp, rfl, rfl, rfl, rfl, rfl, rfl, rfl, ⟨rfl, rfl⟩, fun _ => rfl, fun _ => rfl, rfl, rfl⟩
  · obtain ⟨u, hu, huidx, huphase, -, hulch, hulen, hucnt, -⟩ := runInstrs_cap_txacc c hp hk.le
    have hleft : u.txIdx.toNat < u.cmdLen.toNat := by
      rw [huidx, hulen, cmdLen_latchCapture_toNat]
      exact hk
    have htx : u.phase = .tx := huphase.trans (if_pos hleft)
    have hdone : runInstrs [.txerr] u = some (finish u .transportError, [.done c .transportError]) := by
      simp [runInstrs, exec_txerr_tx htx, hulch]
    exact ⟨_, runInstrs_append hu hdone, rfl, rfl, huidx, congrArg BitVec.toNat hucnt⟩

/-! ## RXB (42_framer.md R77) -/

/-- The verdict on a frame that passes the selected check exactly when `p` holds (42_framer.md R79). -/
theorem completeFrame_verdict {s : State} {p : Prop} (h : markersPass s = true ↔ p) :
    (p → (completeFrame s).code = .ok) ∧ (¬ p → (completeFrame s).code = .framingError) := by
  rcases completeFrame_cases s with ⟨hpass, e⟩ | ⟨hfail, e⟩
  · exact ⟨fun _ => by rw [e, finish_code], fun hnot => absurd (h.mp hpass) hnot⟩
  · exact ⟨fun hp => absurd (h.mpr hp) (by simp [hfail]), fun _ => by rw [e, finish_code]⟩

/-- Settles O36: RXB by phase and count, and the reads of FB after the store. -/
theorem responseByteStored : Obligations.ResponseByteStored := by
  refine ⟨fun b s hp hc => ?_, fun b s hp => ⟨_, exec_out_of_phase rfl hp, rfl, allKept_withOut s _⟩⟩
  have hsame := fbByte_storeFrameByte_same s b
  have hother := fun a => fbByte_storeFrameByte_other s b (a := a)
  have hcnt := storeFrameByte_rxCnt_toNat b hc
  rcases Nat.lt_or_eq_of_le (Nat.le_of_lt_succ hc) with hmore | hlast
  · exact ⟨_, exec_rxb_more b hp hmore, hsame, hother, hcnt, fun _ => ⟨rfl, hp, rfl⟩, by omega, rfl, rfl, rfl,
      ⟨rfl, rfl⟩, fun _ => rfl, rfl, rfl⟩
  · obtain ⟨hok, herr⟩ := completeFrame_verdict (s := storeFrameByte s b) Iff.rfl
    exact ⟨_, exec_rxb_last b hp hlast, hsame, hother, hcnt, by omega,
      fun _ => ⟨rfl, rfl, (Classical.em _).imp hok herr⟩, rfl, rfl, rfl,
      ⟨rfl, rfl⟩, fun _ => rfl, rfl, rfl⟩

/-! ## RXTO (42_framer.md R78) -/

/-- Settles O37: RXTO by phase; with CODE at SHORT_READ there is no sample to read. -/
theorem readTimeoutIsShortRead : Obligations.ReadTimeoutIsShortRead := by
  refine ⟨fun s hp => ?_, fun s hp => ⟨_, exec_out_of_phase rfl hp, rfl, allKept_withOut s _⟩⟩
  have hcode : (finish s .shortRead).code ≠ .ok := by simp
  exact ⟨_, exec_rxto_rx hp, rfl, rfl, rfl, rfl, rfl, rfl, rfl, ⟨rfl, rfl⟩, fun _ => rfl, fun _ => rfl, ⟨rfl, rfl⟩,
    fun i hi => ⟨_, exec_rdsmp_noData hi hcode, rfl⟩⟩

/-! ## The verdict (42_framer.md R79 to R81) -/

/-- The selected check on the three markers: LEGACY_START_CHECK waives the first. -/
theorem markersPass_iff (s : State) :
    markersPass s = true ↔
      (s.params.legacyStartCheck = true ∨ fbByte s 0 = 0x53#8) ∧ fbByte s 1 = 0x4D#8 ∧ fbByte s 4002 = 0x45#8 := by
  cases hl : s.params.legacyStartCheck
  · simp [markersPass, markersOk, hl, and_assoc]
  · simp [markersPass, markersLegacy, hl]

/-- The check on a frame whose last byte is `b`: the 4003rd byte leaves the markers at the front as they are. -/
theorem markersPass_storeFrameByte_iff (b : Byte) {s : State} (hc : s.rxCnt.toNat = 4002) :
    markersPass (storeFrameByte s b) = true ↔
      (s.params.legacyStartCheck = true ∨ fbByte s 0 = 0x53#8) ∧ fbByte s 1 = 0x4D#8 ∧ b = 0x45#8 := by
  have hend : fbByte (storeFrameByte s b) 4002 = b := hc ▸ fbByte_storeFrameByte_same s b
  rw [markersPass_iff, hend, fbByte_storeFrameByte_other s b (a := 0) (by omega),
    fbByte_storeFrameByte_other s b (a := 1) (by omega), storeFrameByte_params]

/-- Settles O38: RXB by count, and the markers of the completed frame for either parameter value. -/
theorem markersDecideVerdict : Obligations.MarkersDecideVerdict := by
  refine ⟨fun b s hp hc => ⟨_, exec_rxb_more b hp hc, rfl, rfl, hp⟩, fun b s hp hc => ?_⟩
  have hpass := markersPass_storeFrameByte_iff b hc
  refine ⟨_, exec_rxb_last b hp hc, rfl, rfl, fun hfull => ?_, fun hlegacy => ?_⟩
  · exact completeFrame_verdict (by simpa [hfull] using hpass)
  · exact completeFrame_verdict (by simpa [hlegacy] using hpass)

end Sys2Proof.Proofs.Framer
end

section
/-! PROOFS. The family 60_exceptions.md: the order of the reject reasons, which instructions emit Done, and that no state
the invariants allow is fatal. -/

namespace Sys2Proof.Proofs.Exceptions

open Sys2Proof Sys2Proof.Machine Sys2Proof.Safety Sys2Proof.Proofs.Encoding Sys2Proof.Proofs.Capture

/-! ## The order of the reject reasons (60_exceptions.md R91) -/

/-- Settles O43: the legality check stands before every instruction, BUSY is CAP's only reject, and RDSMP tests its
index before CODE. -/
theorem rejectPrecedence : Obligations.RejectPrecedence :=
  ⟨fun _ _ => stepRejects_illegal, fun c _ hp => ⟨_, exec_cap_busy c hp, rfl⟩,
    fun _ s hi => ⟨_, exec_rdsmp_range hi s, rfl⟩, fun _ _ hi hc => ⟨_, exec_rdsmp_noData hi hc, rfl⟩⟩

/-! ## The end of a capture (60_exceptions.md R97) -/

/-- The codes of a capture that has ended (30_encoding.md R61). -/
def IsFinalCode (code : Code) : Prop :=
  code = .ok ∨ code = .shortRead ∨ code = .framingError ∨ code = .transportError

/-- From `s` to `t` a capture ends by way of `finish`. -/
structure CaptureEnds (s t : State) : Prop where
  was_busy : s.phase ≠ .idle
  now_idle : t.phase = .idle
  out_eq : t.out = [.done s.lch t.code]
  code_final : IsFinalCode t.code
  settings_kept : SettingsKept s t

/-- From `s` to `t` no capture ends: no Done is emitted, and a capture in flight stays in flight. -/
structure NoCaptureEnds (s t : State) : Prop where
  no_done : ∀ o ∈ t.out, isDone o = false
  stays_busy : s.phase ≠ .idle → t.phase ≠ .idle

/-- The emission of Done tells the two apart. -/
theorem CaptureEnds.exists_done {s t : State} (h : CaptureEnds s t) : ∃ o ∈ t.out, isDone o = true :=
  ⟨_, h.out_eq ▸ List.mem_singleton.mpr rfl, rfl⟩

theorem NoCaptureEnds.not_exists_done {s t : State} (h : NoCaptureEnds s t) : ¬ ∃ o ∈ t.out, isDone o = true := by
  rintro ⟨o, ho, hdone⟩
  simp [h.no_done o ho] at hdone

/-- A step that keeps STATE and emits no Done ends no capture. -/
theorem noCaptureEnds_of_phase_eq {s t : State} (hout : ∀ o ∈ t.out, isDone o = false) (hp : t.phase = s.phase) :
    NoCaptureEnds s t := ⟨hout, fun h => hp ▸ h⟩

/-- Every instruction ends the capture in flight by way of `finish`, or ends none. -/
theorem exec_captureEnds_or {i : Instr} {s t : State} (h : exec i s = .next t) :
    CaptureEnds s t ∨ NoCaptureEnds s t := by
  cases exec_effect h with
  | txerr hp => exact .inl ⟨by simp [hp], rfl, rfl, .inr (.inr (.inr rfl)), rfl, rfl⟩
  | rxto hp => exact .inl ⟨by simp [hp], rfl, rfl, .inr (.inl rfl), rfl, rfl⟩
  | rxbLast b hp hx code hc =>
    have hfinal : IsFinalCode code := hc.elim (fun hok => .inl hok.1) (fun herr => .inr (.inr (.inl herr.1)))
    exact .inl ⟨by simp [hp], rfl, rfl, hfinal, rfl, rfl⟩
  | cap c hp => exact .inr ⟨by simp [isDone], by simp⟩
  | txacc hp hx => exact .inr ⟨by simp [isDone], by simp [hp, ite_eq_iff]⟩
  | rxb b hp hx => exact .inr (noCaptureEnds_of_phase_eq (by simp) rfl)
  | tb | trig | edge => exact .inr (noCaptureEnds_of_phase_eq (by simp [isDone]) (setSettings_phase s _ _))
  | read | busy | range | noData => exact .inr (noCaptureEnds_of_phase_eq (by simp [isDone]) rfl)
  | ignored => exact .inr (noCaptureEnds_of_phase_eq (by simp) rfl)

/-- An instruction that emits Done ends a capture. -/
theorem captureEnds_of_done {i : Instr} {s t : State} (h : exec i s = .next t)
    (hdone : ∃ o ∈ t.out, isDone o = true) : CaptureEnds s t :=
  (exec_captureEnds_or h).resolve_right (fun hno => hno.not_exists_done hdone)

theorem busy_eq_true_iff (s : State) : busy s = true ↔ s.phase ≠ .idle := decide_eq_true_iff

theorem busy_eq_false_iff (s : State) : busy s = false ↔ s.phase = .idle := by simp [busy]

/-- BUSY falls in the step of an instruction exactly when it emits Done. -/
theorem exec_done_iff_busy_falls {i : Instr} {s t : State} (h : exec i s = .next t) :
    (∃ o ∈ t.out, isDone o = true) ↔ busy s = true ∧ busy t = false := by
  rw [busy_eq_true_iff, busy_eq_false_iff]
  rcases exec_captureEnds_or h with hend | hno
  · exact iff_of_true hend.exists_done ⟨hend.was_busy, hend.now_idle⟩
  · exact iff_of_false hno.not_exists_done (fun ⟨hbusy, hidle⟩ => hno.stays_busy hbusy hidle)

/-- A step that emits Done ends a capture: waiting, RESET and an illegal word emit none. -/
theorem step_captureEnds_of_done {s t : State} (h : step s = .next t) (hdone : ∃ o ∈ t.out, isDone o = true) :
    CaptureEnds s t := by
  obtain ⟨-, ⟨-, rfl⟩ | ⟨es, -, rfl⟩ | ⟨w, es, r, -, -, rfl⟩ | ⟨w, es, i, -, -, hi⟩⟩ := step_cases h
  · simp at hdone
  · simp at hdone
  · simp [isDone] at hdone
  · obtain ⟨hbusy, hidle, hout, hfinal, hkept⟩ := captureEnds_of_done hi hdone
    exact ⟨hbusy, hidle, hout, hfinal, hkept⟩

/-- Settles O46: instructions by `exec_done_iff_busy_falls`, steps by `step_captureEnds_of_done`, and clause 4 of the
invariants for CODE. -/
theorem instructionEmitsDoneExactlyWhenBusyFalls : Obligations.InstructionEmitsDoneExactlyWhenBusyFalls := by
  refine ⟨fun i s t => exec_done_iff_busy_falls, fun s t h hdone => ?_, fun s hinv => ?_⟩
  · have hend := step_captureEnds_of_done h hdone
    exact ⟨(busy_eq_true_iff s).mpr hend.was_busy, (busy_eq_false_iff t).mpr hend.now_idle, hend.out_eq,
      hend.code_final⟩
  · exact (busy_eq_true_iff s).trans hinv.busy_iff_pending

/-! ## Progress under the invariants (60_exceptions.md R95) -/

/-- The invariants do not look at the events to come. -/
theorem inv_withInbox {s : State} (h : Inv s) (es : List Event) : Inv (withInbox s es) :=
  { h with }

theorem cmdLenInRange_le {p : Params} {n : Nat} (h : CmdLenInRange p n) : n ≤ 10 := by
  unfold CmdLenInRange at h
  split at h <;> omega

/-- In TX the byte at TX_IDX is one that CMD_BUF has. -/
theorem txIdx_lt_of_inv {s : State} (h : Inv s) (hp : s.phase = .tx) : s.txIdx.toNat < 10 := by
  have hpending : s.code = .pending := h.busy_iff_pending.mp (by simp [hp])
  have hlen : s.cmdLen.toNat ≤ 10 := cmdLenInRange_le (h.len_after_cap (by simp [hpending]))
  obtain ⟨hidx, -⟩ := h.tx_counts hp
  omega

/-- Under the invariants no instruction stops. -/
theorem exec_next_of_inv (i : Instr) {s : State} (h : Inv s) : ∃ t, exec i s = .next t :=
  exec_next (fun _ => txIdx_lt_of_inv h) (fun _ _ hp => (h.rx_counts hp).2)

/-- Under the invariants no step stops. -/
theorem step_next_of_inv {s : State} (h : Inv s) : ∃ t, step s = .next t := by
  unfold step
  rcases fetch_cases s with ⟨hillegal, -⟩ | ⟨-, -, e⟩ | ⟨-, es, -, e⟩ | ⟨-, w, es, -, ⟨i, -, e⟩ | ⟨r, -, e⟩⟩
  · simp [h.params_legal] at hillegal
  · exact ⟨_, by rw [e]⟩
  · exact ⟨_, by rw [e]⟩
  · rw [e]
    exact exec_next_of_inv i (inv_withInbox h es)
  · exact ⟨_, by rw [e]⟩

/-- Settles O52: `step_next_of_inv`; the end of a capture leaves IDLE, where CAP is accepted; and a reject keeps
everything. -/
theorem noFatalState : Obligations.NoFatalState := by
  refine ⟨fun s => step_next_of_inv, fun i s t ch code h hdone _ => ?_, fun i s t r h hr => ?_⟩
  · have hend := captureEnds_of_done h ⟨_, hdone, rfl⟩
    exact ⟨hend.now_idle, hend.settings_kept, fun c => ⟨_, exec_cap_idle c hend.now_idle, rfl⟩⟩
  · obtain ⟨hrejects, -⟩ := rejectsChangeNothing
    obtain ⟨⟨hsettings, -⟩, -⟩ := hrejects i s t r h hr
    exact hsettings

end Sys2Proof.Proofs.Exceptions
end

section
/-! PROOFS. The family 70_reset_and_hazards.md: a RESET that meets a capture in flight, and how long the samples of a
capture can be read. -/

namespace Sys2Proof.Proofs.Reset

open Sys2Proof Sys2Proof.Machine Sys2Proof.Safety Sys2Proof.Proofs.Memory Sys2Proof.Proofs.Encoding
  Sys2Proof.Proofs.Capture

/-! ## RESET during a capture (70_reset_and_hazards.md R105) -/

/-- In a legal configuration the step of a RESET event is `resetBlock`, with the event taken. -/
theorem step_reset {s : State} {es : List Event} (hp : paramsLegal s.params = true) (hi : s.inbox = .reset :: es) :
    step s = .next (resetBlock (withInbox s es)) := by
  simp [step, fetch, hp, hi]

/-- No event word has its meaning in IDLE (30_encoding.md R53). -/
theorem meaningPhase_decodeTransport (e : EventWord) :
    ∃ p, meaningPhase (decodeTransport e) = some p ∧ p ≠ .idle := by
  unfold decodeTransport
  split_ifs
  · exact ⟨.tx, rfl, by decide⟩
  · exact ⟨.tx, rfl, by decide⟩
  · exact ⟨.rx, rfl, by decide⟩
  · exact ⟨.rx, rfl, by decide⟩

/-- In IDLE every event word is ignored. -/
theorem exec_decodeTransport_idle (e : EventWord) {s : State} (h : s.phase = .idle) :
    exec (decodeTransport e) s = .next (withOut s []) := by
  obtain ⟨p, hmeaning, hp⟩ := meaningPhase_decodeTransport e
  exact exec_out_of_phase hmeaning (h.trans_ne hp.symm)

/-- Settles O13: RESET leaves IDLE by way of `resetBlock` and not of `finish`, and IDLE ignores every event word. -/
theorem resetEndsCaptureWithoutDone : Obligations.ResetEndsCaptureWithoutDone := by
  intro s es hparams hinbox _
  refine ⟨_, step_reset hparams hinbox, by simp, rfl, rfl, fun c => ?_, fun e => ?_⟩
  · simp [resetSettings]
  · exact ⟨_, _, rfl, exec_decodeTransport_idle e rfl, rfl, allKept_withOut _ _⟩

/-! ## The samples until the next capture (70_reset_and_hazards.md R108) -/

/-- In IDLE every run without CAP completes and changes neither STATE nor CODE nor FB. -/
theorem runInstrs_idle_keeps_capture {is : List Instr} {s : State} (hp : s.phase = .idle)
    (his : ∀ i ∈ is, isCap i = false) :
    ∃ t o, runInstrs is s = some (t, o) ∧ t.phase = s.phase ∧ t.code = s.code ∧ FrameKept s t := by
  induction is generalizing s with
  | nil => exact ⟨s, [], rfl, rfl, rfl, fun _ => rfl⟩
  | cons i is ih =>
    obtain ⟨hi, his⟩ := List.forall_mem_cons.mp his
    obtain ⟨u, hu⟩ := exec_idle_next i hp
    obtain ⟨huphase, hucode, huframe⟩ := exec_idle_keeps_capture hu hp hi
    obtain ⟨t, o, ht, htphase, htcode, htframe⟩ := ih (huphase.trans hp) his
    exact ⟨t, _, runInstrs_cons hu ht, htphase.trans huphase, htcode.trans hucode,
      fun a => (htframe a).trans (huframe a)⟩

/-- A run that completes begins with an instruction that does. -/
theorem runInstrs_cons_some {i : Instr} {is : List Instr} {s t : State} {o : List Output}
    (h : runInstrs (i :: is) s = some (t, o)) :
    ∃ u o', exec i s = .next u ∧ runInstrs is u = some (t, o') ∧ o = u.out ++ o' := by
  cases hx : exec i s with
  | next u =>
    obtain ⟨o', hrest, hout⟩ : ∃ o', runInstrs is u = some (t, o') ∧ u.out ++ o' = o := by
      simpa [runInstrs, hx] using h
    exact ⟨u, o', rfl, hrest, hout.symm⟩
  | fault r => simp [runInstrs, hx] at h
  | refused r => simp [runInstrs, hx] at h

/-- CODE becomes OK only by way of `finish`, which emits Done. -/
theorem exec_code_ne_ok {i : Instr} {s t : State} (h : exec i s = .next t) (hc : s.code ≠ .ok)
    (hout : ∀ x ∈ t.out, isDone x = false) : t.code ≠ .ok := by
  cases exec_effect h with
  | rxbLast b hp hx code hcode => simp [isDone] at hout
  | txerr | rxto | cap => simp
  | tb | trig | edge => simpa [setTb, setTrig, setEdge] using hc
  | read | busy | range | noData | ignored | txacc | rxb => exact hc

/-- A run without Done does not make CODE OK. -/
theorem runInstrs_code_ne_ok {is : List Instr} {s t : State} {o : List Output} (h : runInstrs is s = some (t, o))
    (hc : s.code ≠ .ok) (hout : ∀ x ∈ o, isDone x = false) : t.code ≠ .ok := by
  induction is generalizing s o with
  | nil =>
    obtain ⟨rfl, -⟩ : s = t ∧ [] = o := by simpa [runInstrs] using h
    exact hc
  | cons i is ih =>
    obtain ⟨u, o', hu, hrest, rfl⟩ := runInstrs_cons_some h
    obtain ⟨hfirst, hlater⟩ := List.forall_mem_append.mp hout
    exact ih hrest (exec_code_ne_ok hu hc hfirst) hlater

/-- Settles O59: without CAP the block stays IDLE with its frame; an accepted CAP makes CODE PENDING, and until a Done
no instruction makes it OK. -/
theorem samplesReadableUntilNextCapture : Obligations.SamplesReadableUntilNextCapture := by
  refine ⟨fun is s hp hc his => ?_, fun c is s t o hp h hout i hi => ?_⟩
  · obtain ⟨t, o, ht, hphase, hcode, hframe⟩ := runInstrs_idle_keeps_capture hp his
    exact ⟨t, o, ht, hphase.trans hp, hcode.trans hc, sample_of_frameKept hframe⟩
  · obtain ⟨u, o', hu, hrest, rfl⟩ := runInstrs_cons_some h
    obtain rfl := Host.Outcome.next.inj ((exec_cap_idle c hp).symm.trans hu)
    obtain ⟨-, hlater⟩ := List.forall_mem_append.mp hout
    exact ⟨_, exec_rdsmp_noData hi (runInstrs_code_ne_ok hrest (by simp) hlater), rfl⟩

end Sys2Proof.Proofs.Reset
end

section
/-! PROOFS. The statements that cut across the rules' families: the coder and its inverse, what every step does and
keeps, that unspecified bytes never show, and runs of a whole capture. -/

namespace Sys2Proof.Proofs.Other

open Sys2Proof Sys2Proof.Machine Sys2Proof.Safety Sys2Proof.Proofs.Memory Sys2Proof.Proofs.Encoding
  Sys2Proof.Proofs.Settings Sys2Proof.Proofs.Capture Sys2Proof.Proofs.Framer Sys2Proof.Proofs.Exceptions
  Sys2Proof.Proofs.Reset

/-! ## Decoding an encoded instruction (30_encoding.md R45, R46, R52) -/

/-- The word made of an operation's code and fields decodes to the operation. -/
theorem decode_hostWord {op : BitVec 4} {ch : BitVec 1} {idx : BitVec 11} {i : Instr}
    (hi : hostInstr op.toNat (channelOf ch) idx.toNat = some i) (hidx : op.toNat = 0xB ∨ idx = 0#11)
    (hch : op.toNat < 0xA ∨ ch = 0#1) : decode (.host (hostWord op ch idx)) = .ok i :=
  decode_host_of_hostInstr (by simpa using hi) (by simpa using hidx) (by simpa using hch)

/-- The operations of one channel: CH names the channel, IDX is 0. -/
theorem decode_channelWord {op : BitVec 4} {c : Channel} {i : Instr} (hop : op.toNat < 0xA)
    (hi : hostInstr op.toNat c 0 = some i) : decode (.host (hostWord op (channelBit c) 0#11)) = .ok i :=
  decode_hostWord (by simpa using hi) (.inr rfl) (.inl hop)

/-- The decoder of event words, by KIND (30_encoding.md R52). -/
theorem decodeTransport_eventWord (kind : BitVec 2) (data : Byte) :
    decodeTransport (eventWord kind data) =
      if kind = 0#2 then .txacc else if kind = 1#2 then .txerr else if kind = 2#2 then .rxb data else .rxto := by
  simp [decodeTransport]

/-- Settles O1: one operation code per host operation, one KIND per transport event; the index of a well-formed RDSMP
fits its field. -/
theorem decodeEncodeEveryInstruction : Obligations.DecodeEncodeEveryInstruction := by
  intro i hwf
  cases i with
  | inctb c | dectb c | gettb c | tgledge c | inctrig c | dectrig c | gettrig c | getedge c | cap c =>
    exact decode_channelWord (by decide) rfl
  | rdst => exact decode_hostWord rfl (.inr rfl) (.inr rfl)
  | rdsmp i =>
    have hlt : i < 2048 := of_decide_eq_true hwf
    exact decode_hostWord (by simp [hostInstr, Nat.mod_eq_of_lt hlt]) (.inl rfl) (.inr rfl)
  | txacc | txerr | rxb b | rxto => exact congrArg Except.ok (decodeTransport_eventWord _ _)

/-! ## Encoding a decoded word (30_encoding.md R45, R46, R52) -/

/-- The operation that the fields of a word name is well-formed, and its word has these fields. -/
theorem encode_of_hostInstr {op : BitVec 4} {ch : BitVec 1} {idx : BitVec 11} {i : Instr}
    (hi : hostInstr op.toNat (channelOf ch) idx.toNat = some i) (hidx : op.toNat = 0xB ∨ idx = 0#11)
    (hch : op.toNat < 0xA ∨ ch = 0#1) : wellFormed i = true ∧ encode i = .host (hostWord op ch idx) := by
  have hop (n : Nat) (h : op.toNat = n) : op = BitVec.ofNat 4 n := by rw [← h, BitVec.ofNat_toNat, BitVec.setWidth_eq]
  unfold hostInstr at hi
  split at hi <;> cases hi <;> rename_i hcode <;> obtain rfl := hop _ hcode
  -- RDST and RDSMP, the tenth and eleventh operation, have no channel; only RDSMP has an index.
  case h_10 =>
    obtain rfl := hidx.resolve_left (by decide)
    obtain rfl := hch.resolve_left (by decide)
    exact ⟨rfl, rfl⟩
  case h_11 =>
    obtain rfl := hch.resolve_left (by decide)
    exact ⟨decide_eq_true idx.isLt, by simp [encode]⟩
  all_goals
    obtain rfl := hidx.resolve_left (by decide)
    exact ⟨rfl, by simp [encode]⟩

/-- Every event word is the word of its instruction, but for the DATA bits that only RXB uses. -/
theorem encode_decodeTransport (e : EventWord) :
    encode (decodeTransport e) = .transport (eventWord (kindOf e) (if kindOf e = 2#2 then dataOf e else 0#8)) := by
  have hkind : kindOf e = 0#2 ∨ kindOf e = 1#2 ∨ kindOf e = 2#2 ∨ kindOf e = 3#2 := by bv_omega
  rcases hkind with h | h | h | h <;> simp [decodeTransport, encode, h]

/-- Settles O2: `encode_of_hostInstr` for the fields of the host word, `encode_decodeTransport` for event words. -/
theorem encodeDecodeEveryWord : Obligations.EncodeDecodeEveryWord := by
  refine ⟨fun w i hd => ?_, fun e => ⟨_, rfl, _, encode_decodeTransport e, ?_, ?_⟩⟩
  · rcases decodeHost_cases w with ⟨j, hj, hok, hidx, hch⟩ | ⟨r, herr, -⟩
    · obtain rfl := Except.ok.inj (hok.symm.trans hd)
      rw [← hostWord_fields w]
      exact encode_of_hostInstr (by simpa using hj) (by simpa using hidx) (by simpa using hch)
    · exact absurd (herr.symm.trans hd) (by simp)
  · rw [bitsAt_kind, kindOf_eventWord, bitsAt_kind]
  · have hrxb : (kindOf e).toNat = 2 ↔ kindOf e = 2#2 := by rw [← BitVec.toNat_inj]; rfl
    rw [bitsAt_data, dataOf_eventWord, bitsAt_kind, bitsAt_data, apply_ite BitVec.toNat]
    exact if_congr hrxb.symm rfl rfl

/-- Settles O7: the decoder evaluated on the seven words. -/
theorem listedWordsDecode : Obligations.ListedWordsDecode := ⟨rfl, rfl, rfl, rfl, rfl, rfl, rfl⟩

/-! ## The step (00_scope.md R3, R7, R11) -/

/-- Settles O8: `step_of_decode_ok`. -/
theorem stepRunsDecodedInstruction : Obligations.StepRunsDecodedInstruction :=
  fun _ _ _ _ => step_of_decode_ok

/-- With no event the step empties the outputs (log entry 5). -/
theorem step_waits {s : State} (hp : paramsLegal s.params = true) (hi : s.inbox = []) :
    step s = .next (withOut s []) := by
  simp [step, fetch, hp, hi]

/-- Settles O9: `step_waits`. -/
theorem waitsWithoutEvent : Obligations.WaitsWithoutEvent :=
  fun s hp hi => ⟨_, step_waits hp hi, rfl, allKept_withOut s []⟩

/-- The range of the parameters, policy by policy (00_scope.md R7). -/
theorem paramsLegal_iff (p : Params) :
    paramsLegal p = true ↔
      (p.trigPolicy = .saturate ∧ 128 ≤ p.trigDefault.toNat ∧ p.trigDefault.toNat ≤ 3968) ∨
      (p.trigPolicy = .literal ∧ p.trigDefault.toNat ≤ 4095 ∧ p.trigDefault.toNat % 256 ≤ 128) := by
  cases hp : p.trigPolicy <;> simp [paramsLegal, hp]

/-- The instruction needs a buffer byte that does not exist (log entry 10). -/
def NeedsMissingByte (i : Instr) (s : State) : Prop :=
  (i = .txacc ∧ s.phase = .tx ∧ 10 ≤ s.txIdx.toNat) ∨
    ((∃ b, i = .rxb b) ∧ s.phase = .rx ∧ 4003 ≤ s.rxCnt.toNat)

theorem exec_fault_of_needsMissingByte {i : Instr} {s : State} (h : NeedsMissingByte i s) :
    ∃ f, exec i s = .fault f := by
  rcases h with ⟨rfl, hp, hx⟩ | ⟨⟨b, rfl⟩, hp, hx⟩
  · exact ⟨.cmdIndex, (if_pos hp).trans (if_neg (Nat.not_lt.mpr hx))⟩
  · exact ⟨.frameIndex, (if_pos hp).trans (if_neg (Nat.not_lt.mpr hx))⟩

theorem exec_next_of_not_needsMissingByte {i : Instr} {s : State} (h : ¬ NeedsMissingByte i s) :
    ∃ t, exec i s = .next t :=
  exec_next (fun hi hp => Nat.not_le.mp fun hx => h (.inl ⟨hi, hp, hx⟩))
    (fun b hi hp => Nat.not_le.mp fun hx => h (.inr ⟨⟨b, hi⟩, hp, hx⟩))

/-- Settles O39: an instruction that misses no byte completes, and one that does faults. -/
theorem onlyMissingBufferBytesFault : Obligations.OnlyMissingBufferBytesFault := by
  intro i s
  change _ ∧ (_ ↔ NeedsMissingByte i s)
  by_cases h : NeedsMissingByte i s
  · obtain ⟨f, hf⟩ := exec_fault_of_needsMissingByte h
    simp [hf, h]
  · obtain ⟨t, ht⟩ := exec_next_of_not_needsMissingByte h
    simp [ht, h]

/-- The step refuses for the sake of the parameters alone: no instruction is refused. -/
theorem step_refused_iff (s : State) : (∃ r, step s = .refused r) ↔ ¬ paramsLegal s.params = true := by
  unfold step
  rcases fetch_cases s with ⟨hp, e⟩ | ⟨hp, -, e⟩ | ⟨hp, es, -, e⟩ | ⟨hp, w, es, -, ⟨i, -, e⟩ | ⟨r, -, e⟩⟩
  · simp [hp, e]
  · simp [hp, e]
  · simp [hp, e]
  · obtain ⟨hnot, -⟩ := onlyMissingBufferBytesFault i (withInbox s es)
    simp [hp, e, hnot]
  · simp [hp, e]

/-- Settles O10: `step_refused_iff` with the range written out. -/
theorem illegalConfigurationRefused : Obligations.IllegalConfigurationRefused :=
  fun s => (step_refused_iff s).trans (not_congr (paramsLegal_iff s.params))

/-- Settles O11: the step takes the event, and no instruction writes the events or the parameters (`exec_env`). -/
theorem eventsTakenInOrderParametersFixed : Obligations.EventsTakenInOrderParametersFixed := by
  intro s t h
  obtain ⟨-, ⟨hi, rfl⟩ | ⟨es, hi, rfl⟩ | ⟨w, es, r, hi, -, rfl⟩ | ⟨w, es, i, hi, -, hexec⟩⟩ := step_cases h
  · simp [hi]
  · simp [hi]
  · simp [hi]
  · obtain ⟨hparams, hinbox⟩ := exec_env hexec
    simp [hi, hparams, hinbox]

/-! ## Reset values and level outputs (70_reset_and_hazards.md R104, R106, 10_state.md R27) -/

/-- Settles O12: the step is `resetBlock`, whose fields are the reset values. -/
theorem resetEventRestoresEveryElement : Obligations.ResetEventRestoresEveryElement := by
  intro s es hp hi
  exact ⟨_, step_reset hp hi, rfl, fun c => by simp [resetSettings], rfl, rfl, rfl, rfl, rfl, rfl,
    fun _ => rfl, fun _ => rfl, rfl, rfl⟩

/-- Settles O14: the fields of `State.reset`, channel by channel for the settings. -/
theorem powerOnState : Obligations.PowerOnState := by
  refine ⟨fun c => ?_, rfl, rfl, rfl, rfl, rfl, rfl, rfl, rfl, rfl⟩
  cases c with
  | ch1 => exact ⟨rfl, rfl, rfl⟩
  | ch2 => exact ⟨rfl, rfl, rfl⟩

theorem txValid_eq_true_iff (s : State) : txValid s = true ↔ s.phase = .tx := decide_eq_true_iff

/-- Settles O40: the outputs by phase; TXACC in TX sends the byte at TX_IDX, which is the one TX_DATA shows. -/
theorem levelOutputs : Obligations.LevelOutputs := by
  refine ⟨fun s => ⟨busy_eq_true_iff s, txValid_eq_true_iff s, fun h => if_pos h, fun h => by simp [txData, h]⟩,
    fun s b hb hx => ?_⟩
  obtain ⟨hvalid, rfl⟩ : txValid s = true ∧ cmdByte s s.txIdx.toNat = b := by simpa [txData] using hb
  exact ⟨_, exec_txacc_tx ((txValid_eq_true_iff s).mp hvalid) hx, rfl⟩

/-! ## The trigger arithmetic (40_settings.md R67, R68) -/

/-- Under LITERAL a level in range is on the grid of TRIG_DEFAULT, whose offset is at most 128: it skips 129 to 255. -/
theorem literal_level_ge {p : Params} {v : BitVec 13} (hlegal : paramsLegal p = true) (hv : TrigInRange p v)
    (hp : p.trigPolicy = .literal) (h : 128 < v.toNat) : 256 ≤ v.toNat := by
  simp only [paramsLegal, hp, Bool.and_eq_true, decide_eq_true_eq] at hlegal
  simp only [TrigInRange, hp] at hv
  omega

/-- What INCTRIG does to the trigger levels. -/
theorem exec_inctrig (c : Channel) (s : State) :
    ∃ t, exec (.inctrig c) s = .next t ∧ (settings t c).trig = incTrig s.params.trigPolicy (settings s c).trig ∧
      t.params = s.params :=
  ⟨_, rfl, by simp [setTrig], by simp [setTrig]⟩

/-- What DECTRIG does to the trigger levels. -/
theorem exec_dectrig (c : Channel) (s : State) :
    ∃ t, exec (.dectrig c) s = .next t ∧ (settings t c).trig = decTrig s.params.trigPolicy (settings s c).trig ∧
      t.params = s.params :=
  ⟨_, rfl, by simp [setTrig], by simp [setTrig]⟩

/-- Settles O21: the levels that DECTRIG could not lower by 256 are the ones `literal_level_ge` excludes. -/
theorem literalDecrementNeverNegative : Obligations.LiteralDecrementNeverNegative := by
  intro c s hinv hp h
  have h256 := literal_level_ge hinv.params_legal (hinv.trig_range c) hp h
  obtain ⟨t, ht, htrig, -⟩ := exec_dectrig c s
  exact ⟨h256, t, ht, by rw [htrig, hp, decTrig_literal_toNat_add h256]⟩

theorem runInstrs_inctrig_dectrig (c : Channel) (s : State) :
    ∃ t o, runInstrs [.inctrig c, .dectrig c] s = some (t, o) ∧
      (settings t c).trig = decTrig s.params.trigPolicy (incTrig s.params.trigPolicy (settings s c).trig) := by
  obtain ⟨u, hu, hutrig, huparams⟩ := exec_inctrig c s
  obtain ⟨t, ht, httrig, -⟩ := exec_dectrig c u
  exact ⟨t, _, runInstrs_cons hu (runInstrs_cons ht rfl), by rw [httrig, hutrig, huparams]⟩

theorem runInstrs_dectrig_inctrig (c : Channel) (s : State) :
    ∃ t o, runInstrs [.dectrig c, .inctrig c] s = some (t, o) ∧
      (settings t c).trig = incTrig s.params.trigPolicy (decTrig s.params.trigPolicy (settings s c).trig) := by
  obtain ⟨u, hu, hutrig, huparams⟩ := exec_dectrig c s
  obtain ⟨t, ht, httrig, -⟩ := exec_inctrig c u
  exact ⟨t, _, runInstrs_cons hu (runInstrs_cons ht rfl), by rw [httrig, hutrig, huparams]⟩

theorem decTrig_incTrig_grid (p : TrigPolicy) {v : BitVec 13} (hgrid : v.toNat % 256 = 128) (h : v.toNat < 3968) :
    decTrig p (incTrig p v) = v := by
  have hinc := incTrig_grid_toNat p h hgrid
  have hdec := decTrig_grid_toNat_add p (v := incTrig p v) (by omega) (by omega)
  exact BitVec.eq_of_toNat_eq (by omega)

theorem incTrig_decTrig_grid (p : TrigPolicy) {v : BitVec 13} (hgrid : v.toNat % 256 = 128) (hlo : 128 < v.toNat)
    (hhi : v.toNat ≤ 3968) : incTrig p (decTrig p v) = v := by
  have hdec := decTrig_grid_toNat_add p hlo hgrid
  have hinc := incTrig_grid_toNat p (v := decTrig p v) (by omega) (by omega)
  exact BitVec.eq_of_toNat_eq (by omega)

theorem decTrig_incTrig_literal {v : BitVec 13} (h : v.toNat < 3968) : decTrig .literal (incTrig .literal v) = v := by
  have hinc := incTrig_literal_toNat h
  have hdec := decTrig_literal_toNat_add (v := incTrig .literal v) (by omega)
  exact BitVec.eq_of_toNat_eq (by omega)

/-- Above 3712 the increment clamps to 3968 under SATURATE, and the decrement starts from there. -/
theorem decTrig_incTrig_saturate_toNat {v : BitVec 13} (hlo : 3712 < v.toNat) (hhi : v.toNat ≤ 3968) :
    (decTrig .saturate (incTrig .saturate v)).toNat = 3712 := by
  have hinc : (incTrig .saturate v).toNat = 3968 := by
    rcases Nat.lt_or_eq_of_le hhi with h | h
    · rw [incTrig_saturate_toNat h]
      omega
    · rw [incTrig_of_le _ h.ge, h]
  rw [decTrig_saturate_toNat, hinc]
  rfl

/-- Settles O24: the two runs as compositions of `incTrig` and `decTrig`, and their four laws. -/
theorem triggerRoundTrips : Obligations.TriggerRoundTrips := by
  intro c s
  obtain ⟨t, o, hrun, htrig⟩ := runInstrs_inctrig_dectrig c s
  obtain ⟨t', o', hrun', htrig'⟩ := runInstrs_dectrig_inctrig c s
  refine ⟨fun hgrid h => ⟨t, o, hrun, ?_⟩, fun hgrid hlo hhi => ⟨t', o', hrun', ?_⟩,
    fun hp _ h => ⟨t, o, hrun, ?_⟩, fun hp hlo hhi => ⟨t, o, hrun, ?_⟩⟩
  · rw [htrig, decTrig_incTrig_grid _ hgrid h]
  · rw [htrig', incTrig_decTrig_grid _ hgrid hlo hhi]
  · rw [htrig, hp, decTrig_incTrig_literal h]
  · rw [htrig, hp, decTrig_incTrig_saturate_toNat hlo hhi]

/-! ## The length and the end of the request (30_encoding.md R57) -/

theorem build_length_saturate {s : State} (h : Inv s) (hp : s.params.trigPolicy = .saturate) (c : Channel) :
    (build s c).length = 9 ∨ (build s c).length = 10 := by
  have hrange := h.trig_range c
  simp only [TrigInRange, hp] at hrange
  rw [build_length, dec_length]
  split_ifs <;> omega

/-- The request without its last byte. -/
def buildFront (s : State) (c : Channel) : List Byte :=
  [asciiS, asciiT, digit (settings s c).tb.toNat, digit (channelNumber c)] ++ dec (settings s c).trig ++
    [flag (settings s c).edge]

theorem build_eq_buildFront (s : State) (c : Channel) : build s c = buildFront s c ++ [asciiE] := by
  simp [build, buildFront]

theorem digit_ne_asciiE {d : Nat} (h : d < 10) : digit d ≠ asciiE := by
  intro he
  have hd := digit_toNat h
  rw [he] at hd
  simp only [BitVec.toNat_ofNat] at hd
  omega

/-- The bytes before the last are 'S', 'T' and digits, none of them 'E'. -/
theorem asciiE_notMem_buildFront (s : State) (c : Channel) : asciiE ∉ buildFront s c := by
  have htb : asciiE ≠ digit (settings s c).tb.toNat :=
    (digit_ne_asciiE ((settings s c).tb.isLt.trans (by decide))).symm
  have hch : asciiE ≠ digit (channelNumber c) := by cases c <;> decide
  have hflag : asciiE ≠ flag (settings s c).edge := by cases (settings s c).edge <;> decide
  have hdec : asciiE ∉ dec (settings s c).trig := by
    intro hmem
    obtain ⟨d, hd, he⟩ := decDigits_digits _ _ _ hmem
    exact digit_ne_asciiE hd he.symm
  have hletters : asciiE ≠ asciiS ∧ asciiE ≠ asciiT := by decide
  simp [buildFront, hletters, htb, hch, hflag, hdec]

/-- An 'E' after a list without one is at the end. -/
theorem eq_length_of_getElem?_append_singleton {α : Type} {l : List α} {x : α} {k : Nat} (hx : x ∉ l)
    (h : (l ++ [x])[k]? = some x) : k = l.length := by
  rcases Nat.lt_or_ge k l.length with hk | hk
  · rw [List.getElem?_append_left hk] at h
    exact absurd (List.mem_of_getElem? h) hx
  · have hlt := (List.getElem?_eq_some_iff.mp h).1
    simp only [List.length_append, List.length_singleton] at hlt
    omega

/-- Settles O28: the lengths by the number of digits; 'E' is no byte of `buildFront`, whose last byte is the flag. -/
theorem requestLength : Obligations.RequestLength := by
  intro c s
  have hlen := build_length s c
  have hdigits := dec_length (settings s c).trig
  refine ⟨hlen, fun h => ?_, fun h1 h2 => ?_, fun h1 h2 => ?_, fun h => ?_,
    fun hinv hp => build_length_saturate hinv hp c, fun k hk => ?_⟩
  · rw [hlen, hdigits, if_pos (by omega)]
  · rw [hlen, hdigits, if_neg (by omega), if_pos (by omega)]
  · rw [hlen, hdigits, if_neg (by omega), if_neg (by omega), if_pos (by omega)]
  · rw [hlen, hdigits, if_neg (by omega), if_neg (by omega), if_neg (by omega)]
  · rw [build_eq_buildFront] at hk
    obtain rfl := eq_length_of_getElem?_append_singleton (asciiE_notMem_buildFront s c) hk
    refine ⟨by simp [build_eq_buildFront], 4 + (dec (settings s c).trig).length, ?_, ?_⟩
    · simp only [buildFront, List.length_append, List.length_cons, List.length_nil]
    · rw [build_getElem?_add_four]
      exact .trans (by simp) (congrArg some (flag_eq (settings s c).edge))

/-! ## The invariants (10_state.md R28) -/

/-- The reset values meet the invariants, in every legal configuration. -/
theorem inv_of_reset_values {s : State} (hp : paramsLegal s.params = true)
    (hset : ∀ c, settings s c = resetSettings s.params) (hphase : s.phase = .idle) (hcode : s.code = .none)
    (hlen : s.cmdLen = 0#4) (hidx : s.txIdx = 0#4) (hcnt : s.rxCnt = 0#13) (hcmd : s.cmdBuf = []) (hfb : s.fb = []) :
    Inv s where
  params_legal := hp
  tb_range c := by simp [hset c, resetSettings]
  trig_range c := by
    have hlegal := (paramsLegal_iff s.params).mp hp
    rw [hset c]
    rcases hlegal with ⟨hpolicy, hlo, hhi⟩ | ⟨hpolicy, hle, hmod⟩
    · simp only [TrigInRange, hpolicy, resetSettings]
      omega
    · simp only [TrigInRange, hpolicy, resetSettings]
      exact ⟨trivial, by omega, by omega, fun _ => by omega⟩
  busy_iff_pending := by simp [hphase, hcode]
  tx_counts := by simp [hphase]
  rx_counts := by simp [hphase]
  ok_count := by simp [hcode]
  ok_frame := by simp [hcode]
  ok_markers := by simp [hcode]
  short_count := by simp [hcode]
  framing_count := by simp [hcode]
  transport_count := by simp [hcode]
  len_before_cap := by simp [hcode, hlen]
  len_after_cap := by simp [hcode]
  idx_le_len := by simp [hidx]
  cnt_le_frame := by simp [hcnt]
  rx_frame := by simp [hphase]
  cmd_latched := by simp [hlen]
  cmd_wf := by rw [hcmd, wf_nil]
  fb_wf := by rw [hfb, wf_nil]

theorem inv_resetBlock {s : State} (hp : paramsLegal s.params = true) : Inv (resetBlock s) :=
  inv_of_reset_values hp (settings_resetBlock s) rfl rfl rfl rfl rfl rfl rfl

/-- Settles O48: `State.reset` holds the reset values of a legal configuration. -/
theorem invariantsAtReset : Obligations.InvariantsAtReset :=
  inv_of_reset_values rfl (fun c => by cases c <;> rfl) rfl rfl rfl rfl rfl rfl rfl

/-- Settles O49: the step is `resetBlock`. -/
theorem invariantsAfterResetEvent : Obligations.InvariantsAfterResetEvent :=
  fun _ _ hp hi => ⟨_, step_reset hp hi, inv_resetBlock hp⟩

/-- The invariants do not look at the outputs. -/
theorem inv_withOut {s : State} (h : Inv s) (o : List Output) : Inv (withOut s o) :=
  { h with }

/-! ## Settings operations keep the invariants -/

/-- Settings in range may replace those of one channel. -/
theorem inv_setSettings {s : State} {c : Channel} {v : Settings} (h : Inv s) (htb : v.tb.toNat ≤ 6)
    (htrig : TrigInRange s.params v.trig) : Inv (setSettings s c v) := by
  have hd (d : Channel) : settings (setSettings s c v) d = v ∨ settings (setSettings s c v) d = settings s d := by
    rcases eq_or_ne d c with rfl | hne
    · exact .inl (settings_setSettings_same s d v)
    · exact .inr (settings_setSettings_other s v hne)
  have htbs (d : Channel) : (settings (setSettings s c v) d).tb.toNat ≤ 6 := by
    rcases hd d with e | e
    · rwa [e]
    · rw [e]
      exact h.tb_range d
  have htrigs (d : Channel) : TrigInRange s.params (settings (setSettings s c v) d).trig := by
    rcases hd d with e | e
    · rwa [e]
    · rw [e]
      exact h.trig_range d
  cases c with
  | ch1 => exact { h with tb_range := htbs, trig_range := htrigs }
  | ch2 => exact { h with tb_range := htbs, trig_range := htrigs }

theorem trigInRange_incTrig {p : Params} {v : BitVec 13} (hv : TrigInRange p v) :
    TrigInRange p (incTrig p.trigPolicy v) := by
  rcases Nat.lt_or_ge v.toNat 3968 with h | h
  · unfold TrigInRange at hv ⊢
    cases hp : p.trigPolicy with
    | saturate =>
      simp only [hp] at hv ⊢
      rw [incTrig_saturate_toNat h]
      omega
    | literal =>
      simp only [hp] at hv ⊢
      rw [incTrig_literal_toNat h]
      omega
  · rwa [incTrig_of_le _ h]

theorem trigInRange_decTrig {p : Params} {v : BitVec 13} (hlegal : paramsLegal p = true) (hv : TrigInRange p v) :
    TrigInRange p (decTrig p.trigPolicy v) := by
  rcases Nat.lt_or_ge 128 v.toNat with h | h
  · have hge := literal_level_ge hlegal hv (h := h)
    rcases (paramsLegal_iff p).mp hlegal with ⟨hp, -, -⟩ | ⟨hp, -, hmod⟩
    · simp only [TrigInRange, hp] at hv ⊢
      rw [decTrig_saturate_toNat, if_pos h]
      omega
    · have hdec := decTrig_literal_toNat_add (hge hp)
      simp only [TrigInRange, hp] at hv ⊢
      omega
  · rwa [decTrig_of_le _ h]

/-! ## The capture in flight keeps the invariants -/

/-- A capture in flight has CODE PENDING and a request. -/
theorem pending_of_busy {s : State} (h : Inv s) (hbusy : s.phase ≠ .idle) :
    s.code = .pending ∧ s.cmdLen ≠ 0#4 ∧ CmdLenInRange s.params s.cmdLen.toNat := by
  have hpending := h.busy_iff_pending.mp hbusy
  have hcode : s.code ≠ .none := by simp [hpending]
  exact ⟨hpending, mt h.len_before_cap.mpr hcode, h.len_after_cap hcode⟩

theorem cmdLenInRange_build {s : State} (h : Inv s) (c : Channel) :
    CmdLenInRange s.params (build s c).length := by
  unfold CmdLenInRange
  split
  next hp => exact build_length_saturate h hp c
  next => exact build_length_bounds s c

/-- An accepted CAP: the request is latched and nothing of it sent. -/
theorem inv_latchCapture {s : State} (h : Inv s) (c : Channel) : Inv (latchCapture s c (build s c)) := by
  have hlen := cmdLen_latchCapture_toNat s c
  have hbounds := build_length_bounds s c
  exact { h with
    busy_iff_pending := by simp
    tx_counts := fun _ => ⟨by rw [hlen]; simp; omega, rfl⟩
    rx_counts := by simp
    ok_count := by simp
    ok_frame := by simp
    ok_markers := by simp
    short_count := by simp
    framing_count := by simp
    transport_count := by simp
    len_before_cap := by simp; bv_omega
    len_after_cap := fun _ => by rw [hlen]; exact cmdLenInRange_build h c
    idx_le_len := by simp
    cnt_le_frame := by simp
    rx_frame := by simp
    cmd_latched := fun k hk => by
      rw [hlen] at hk
      simp [memRead_memFrom, hk]
    cmd_wf := wf_memFrom _ hbounds.2 }

/-- TXACC in TX: the index goes on, and reaches CMD_LEN exactly when RX begins. -/
theorem inv_advanceTx {s : State} (h : Inv s) (hp : s.phase = .tx) : Inv (advanceTx s) := by
  obtain ⟨hpending, -⟩ := pending_of_busy h (by simp [hp])
  obtain ⟨hlt, hcnt⟩ := h.tx_counts hp
  have hx := txIdx_lt_of_inv h hp
  have hidx := advanceTx_txIdx_toNat hx
  have hcases : ((advanceTx s).phase = .rx ∧ s.txIdx.toNat + 1 = s.cmdLen.toNat) ∨
      ((advanceTx s).phase = .tx ∧ s.txIdx.toNat + 1 < s.cmdLen.toNat) := by
    rcases Nat.lt_or_eq_of_le (Nat.succ_le_of_lt hlt) with hmore | hlast
    · exact .inr ⟨(advanceTx_phase_more hx hmore.ne).trans hp, hmore⟩
    · exact .inl ⟨advanceTx_phase_last hx hlast, hlast⟩
  have hbusy : (advanceTx s).phase ≠ .idle := by
    rcases hcases with ⟨e, -⟩ | ⟨e, -⟩ <;> exact e.trans_ne (by decide)
  exact { h with
    busy_iff_pending := iff_of_true hbusy hpending
    tx_counts := fun htx => by
      rcases hcases with ⟨e, -⟩ | ⟨-, hmore⟩
      · exact absurd (e.symm.trans htx) (by decide)
      · exact ⟨by rwa [hidx], hcnt⟩
    rx_counts := fun hrx => by
      rcases hcases with ⟨-, hlast⟩ | ⟨e, -⟩
      · exact ⟨(txIdx_succ_eq_cmdLen_iff hx).mpr hlast, by simp [hcnt]⟩
      · exact absurd (e.symm.trans hrx) (by decide)
    transport_count := by simp [hpending]
    idx_le_len := by rw [hidx]; exact hlt
    rx_frame := by simp [hcnt] }

/-- RXB in RX stores the next byte of the frame. -/
theorem storeFrameByte_isSome {s : State} (b : Byte) (h : Inv s) (hp : s.phase = .rx) {a : Nat}
    (ha : a < s.rxCnt.toNat + 1) : (memRead (storeFrameByte s b).fb a).isSome = true := by
  rw [storeFrameByte_fb]
  rcases eq_or_ne a s.rxCnt.toNat with rfl | hne
  · rw [memRead_memWrite_same]
    rfl
  · rw [memRead_memWrite_other _ _ hne]
    exact h.rx_frame hp a (by omega)

/-- RXB in RX before the last byte. -/
theorem inv_storeFrameByte {s : State} (b : Byte) (h : Inv s) (hp : s.phase = .rx) (hx : s.rxCnt.toNat < 4002) :
    Inv (storeFrameByte s b) := by
  obtain ⟨hpending, -⟩ := pending_of_busy h (by simp [hp])
  have hcnt := storeFrameByte_rxCnt_toNat b (s := s) (by omega)
  exact { h with
    tx_counts := by simp [hp]
    rx_counts := fun _ => ⟨(h.rx_counts hp).1, by omega⟩
    ok_count := by simp [hpending]
    ok_frame := by simp [hpending]
    ok_markers := by simp [hpending]
    short_count := by simp [hpending]
    framing_count := by simp [hpending]
    transport_count := by simp [hpending]
    cnt_le_frame := by omega
    rx_frame := fun _ a ha => storeFrameByte_isSome b h hp (hcnt ▸ ha)
    fb_wf := wf_memWrite b (by omega) h.fb_wf }

/-! ## The end of a capture keeps the invariants -/

/-- What a final code says of the state that `finish` leaves (10_state.md R28, 60_exceptions.md R84). -/
structure OutcomeHolds (s : State) (code : Code) : Prop where
  final : IsFinalCode code
  ok_count : code = .ok → s.rxCnt.toNat = 4003
  ok_frame : code = .ok → ∀ a, a < 4003 → (memRead s.fb a).isSome = true
  ok_markers : code = .ok → markersPass s = true
  short : code = .shortRead → s.rxCnt.toNat < 4003
  framing : code = .framingError → s.rxCnt.toNat = 4003
  transport : code = .transportError → s.rxCnt = 0#13 ∧ s.txIdx.toNat < s.cmdLen.toNat

/-- However many bytes of the frame the last instruction stored, `finish` with the code they call for meets the
invariants. -/
theorem inv_finish {s : State} {m : Mem} {n : BitVec 13} {code : Code} (h : Inv s) (hbusy : s.phase ≠ .idle)
    (hout : OutcomeHolds { s with fb := m, rxCnt := n } code) (hcnt : n.toNat ≤ 4003) (hwf : Memory.wf 4003 m = true) :
    Inv (finish { s with fb := m, rxCnt := n } code) := by
  obtain ⟨-, hlen, hrange⟩ := pending_of_busy h hbusy
  obtain ⟨hpending, hnone⟩ : code ≠ .pending ∧ code ≠ .none := by
    rcases hout.final with rfl | rfl | rfl | rfl <;> decide
  exact { h with
    busy_iff_pending := iff_of_false (by simp) hpending
    tx_counts := by simp
    rx_counts := by simp
    ok_count := hout.ok_count
    ok_frame := hout.ok_frame
    ok_markers := hout.ok_markers
    short_count := hout.short
    framing_count := hout.framing
    transport_count := hout.transport
    len_before_cap := iff_of_false hnone hlen
    len_after_cap := fun _ => hrange
    cnt_le_frame := hcnt
    rx_frame := by simp
    fb_wf := hwf }

/-- TXERR in TX: no byte received, the request not complete. -/
theorem inv_finish_transportError {s : State} (h : Inv s) (hp : s.phase = .tx) : Inv (finish s .transportError) := by
  obtain ⟨hidx, hcnt⟩ := h.tx_counts hp
  have hout : OutcomeHolds s .transportError := by
    constructor <;> simp [IsFinalCode, hcnt, hidx]
  exact inv_finish h (by simp [hp]) hout h.cnt_le_frame h.fb_wf

/-- RXTO in RX: fewer bytes than a frame has. -/
theorem inv_finish_shortRead {s : State} (h : Inv s) (hp : s.phase = .rx) : Inv (finish s .shortRead) := by
  obtain ⟨-, hcnt⟩ := h.rx_counts hp
  have hout : OutcomeHolds s .shortRead := by
    constructor <;> simp [IsFinalCode, hcnt]
  exact inv_finish h (by simp [hp]) hout h.cnt_le_frame h.fb_wf

/-- RXB in RX with the last byte: every byte of the frame received. -/
theorem inv_finish_frame {s : State} {b : Byte} {code : Code} (h : Inv s) (hp : s.phase = .rx)
    (hx : s.rxCnt.toNat = 4002)
    (hc : (code = .ok ∧ markersPass (storeFrameByte s b) = true) ∨
      (code = .framingError ∧ markersPass (storeFrameByte s b) = false)) :
    Inv (finish (storeFrameByte s b) code) := by
  have hcnt : (storeFrameByte s b).rxCnt.toNat = 4003 := by rw [storeFrameByte_rxCnt_toNat b (by omega), hx]
  have hframe (a : Nat) (ha : a < 4003) : (memRead (storeFrameByte s b).fb a).isSome = true :=
    storeFrameByte_isSome b h hp (by omega)
  have hout : OutcomeHolds (storeFrameByte s b) code := by
    rcases hc with ⟨rfl, hpass⟩ | ⟨rfl, -⟩
    · exact ⟨.inl rfl, fun _ => hcnt, fun _ => hframe, fun _ => hpass, by simp, by simp, by simp⟩
    · exact ⟨.inr (.inr (.inl rfl)), by simp, by simp, by simp, by simp, fun _ => hcnt, by simp⟩
  exact inv_finish h (by simp [hp]) hout hcnt.le (wf_memWrite b (by omega) h.fb_wf)

/-! ## Every step keeps the invariants -/

/-- Every instruction keeps the invariants: one lemma above per thing it can do. -/
theorem exec_keeps_inv {i : Instr} {s t : State} (h : exec i s = .next t) (hinv : Inv s) : Inv t := by
  cases exec_effect h with
  | tb c i v hi hv =>
    refine inv_withOut (inv_setSettings hinv ?_ ?_) _
    exacts [hv (hinv.tb_range c), hinv.trig_range c]
  | edge c =>
    refine inv_withOut (inv_setSettings hinv ?_ ?_) _
    exacts [hinv.tb_range c, hinv.trig_range c]
  | trig c i v hi =>
    have hv : TrigInRange s.params v := by
      rcases hi with ⟨-, rfl⟩ | ⟨-, rfl⟩
      · exact trigInRange_incTrig (hinv.trig_range c)
      · exact trigInRange_decTrig hinv.params_legal (hinv.trig_range c)
    refine inv_withOut (inv_setSettings hinv ?_ ?_) _
    exacts [hinv.tb_range c, hv]
  | read | busy | range | noData | ignored => exact inv_withOut hinv _
  | cap c hp => exact inv_withOut (inv_latchCapture hinv c) _
  | txacc hp hx => exact inv_withOut (inv_advanceTx hinv hp) _
  | txerr hp => exact inv_finish_transportError hinv hp
  | rxb b hp hx => exact inv_withOut (inv_storeFrameByte b hinv hp hx) _
  | rxbLast b hp hx code hc => exact inv_finish_frame hinv hp hx hc
  | rxto hp => exact inv_finish_shortRead hinv hp

/-- Settles O50: a step waits, resets, rejects an illegal word, or runs an instruction (`exec_keeps_inv`). -/
theorem everyStepKeepsInvariants : Obligations.EveryStepKeepsInvariants := by
  intro s t hinv h
  obtain ⟨hp, ⟨-, rfl⟩ | ⟨es, -, rfl⟩ | ⟨w, es, r, -, -, rfl⟩ | ⟨w, es, i, -, -, hi⟩⟩ := step_cases h
  · exact inv_withOut hinv _
  · exact inv_resetBlock hp
  · exact inv_withOut (inv_withInbox hinv es) _
  · exact exec_keeps_inv hi (inv_withInbox hinv es)

/-! ## The canonical form of the buffers (log entries 7 and 8) -/

theorem exec_keeps_wf {i : Instr} {s t : State} (h : exec i s = .next t) (hcmd : Memory.wf 10 s.cmdBuf = true)
    (hfb : Memory.wf 4003 s.fb = true) : Memory.wf 10 t.cmdBuf = true ∧ Memory.wf 4003 t.fb = true := by
  cases exec_effect h with
  | tb | trig | edge => simp [setTb, setTrig, setEdge, hcmd, hfb]
  | cap c hp => exact ⟨wf_memFrom _ (build_length_bounds s c).2, hfb⟩
  | rxb b hp hx => exact ⟨hcmd, wf_memWrite b (by omega) hfb⟩
  | rxbLast b hp hx code hc => exact ⟨hcmd, wf_memWrite b (by omega) hfb⟩
  | read | busy | range | noData | ignored | txacc | txerr | rxto => exact ⟨hcmd, hfb⟩

/-- Settles O51: RESET empties the buffers; of the instructions CAP fills CMD_BUF and RXB writes FB, each in its
size. -/
theorem everyStepKeepsBuffersCanonical : Obligations.EveryStepKeepsBuffersCanonical := by
  intro s t hcmd hfb h
  obtain ⟨-, ⟨-, rfl⟩ | ⟨es, -, rfl⟩ | ⟨w, es, r, -, -, rfl⟩ | ⟨w, es, i, -, -, hi⟩⟩ := step_cases h
  · exact ⟨hcmd, hfb⟩
  · exact ⟨wf_nil 10, wf_nil 4003⟩
  · exact ⟨hcmd, hfb⟩
  · exact exec_keeps_wf hi hcmd hfb

/-! ## Unspecified buffer bytes (10_state.md R22, R25) -/

/-- The state with other unspecified buffer bytes: the counters that key them are replaced. -/
def withEpochs (s : State) (cmd fb : Nat) : State := { s with cmdEpoch := cmd, fbEpoch := fb }

theorem sameButUnspecified_withEpochs (s : State) (m n : Nat) : SameButUnspecified s (withEpochs s m n) := rfl

theorem eq_withEpochs_of_sameButUnspecified {s s' : State} (h : SameButUnspecified s s') :
    s' = withEpochs s s'.cmdEpoch s'.fbEpoch := by
  have hs := congrArg (withEpochs · s'.cmdEpoch s'.fbEpoch) h
  exact hs

/-- A byte of FB that has been received does not depend on the counters. -/
theorem fbByte_withEpochs {s : State} {a : Nat} (m n : Nat) (h : (memRead s.fb a).isSome = true) :
    fbByte (withEpochs s m n) a = fbByte s a := by
  obtain ⟨v, hv⟩ := Option.isSome_iff_exists.mp h
  simp [fbByte, withEpochs, hv]

/-- A byte of CMD_BUF that has been latched does not depend on the counters. -/
theorem cmdByte_withEpochs {s : State} {k : Nat} (m n : Nat) (h : (memRead s.cmdBuf k).isSome = true) :
    cmdByte (withEpochs s m n) k = cmdByte s k := by
  obtain ⟨v, hv⟩ := Option.isSome_iff_exists.mp h
  simp [cmdByte, withEpochs, hv]

/-- With CODE OK the whole frame has been received. -/
theorem sample_withEpochs {s : State} {i : Nat} (m n : Nat) (hinv : Inv s) (hc : s.code = .ok) (hi : i < 2000) :
    sample (withEpochs s m n) i = sample s i := by
  have hbyte (a : Nat) (ha : a < 4003) := fbByte_withEpochs m n (hinv.ok_frame hc a ha)
  rw [sample, sample, hbyte _ (show 2 * i + 2 < 4003 by omega), hbyte _ (show 2 * i + 3 < 4003 by omega)]

/-- The verdict on a frame received whole does not depend on the counters. -/
theorem completeFrame_withEpochs {s : State} (m n : Nat) (h : ∀ a, a < 4003 → (memRead s.fb a).isSome = true) :
    completeFrame (withEpochs s m n) = withEpochs (completeFrame s) m n := by
  have hpass : markersPass (withEpochs s m n) = markersPass s := by
    rw [Bool.eq_iff_iff, markersPass_iff, markersPass_iff, fbByte_withEpochs m n (h 0 (by omega)),
      fbByte_withEpochs m n (h 1 (by omega)), fbByte_withEpochs m n (h 4002 (by omega))]
    rfl
  rw [completeFrame, hpass]
  rfl

/-- Under the invariants every instruction does the same, whatever the unspecified bytes hold. -/
theorem exec_withEpochs (i : Instr) {s : State} (hinv : Inv s) (m n : Nat) :
    ∃ t m' n', exec i s = .next t ∧ exec i (withEpochs s m n) = .next (withEpochs t m' n') := by
  by_cases hignored : ∃ p, meaningPhase i = some p ∧ s.phase ≠ p
  · obtain ⟨p, hi, hp⟩ := hignored
    exact ⟨_, m, n, exec_out_of_phase hi hp, exec_out_of_phase hi hp⟩
  have hphase {p : Phase} (hi : meaningPhase i = some p) : s.phase = p := by
    by_contra hp
    exact hignored ⟨p, hi, hp⟩
  cases i with
  | inctb c | dectb c | gettb c | tgledge c | inctrig c | dectrig c | gettrig c | getedge c =>
    exact ⟨_, m, n, rfl, by cases c <;> rfl⟩
  | rdst => exact ⟨_, m, n, rfl, rfl⟩
  | cap c =>
    by_cases hp : s.phase = .idle
    · exact ⟨_, m + 1, n, exec_cap_idle c hp, (exec_cap_idle c (s := withEpochs s m n) hp).trans (by cases c <;> rfl)⟩
    · exact ⟨_, m, n, exec_cap_busy c hp, exec_cap_busy c hp⟩
  | rdsmp k =>
    rcases Nat.lt_or_ge k 2000 with hk | hk
    · by_cases hc : s.code = .ok
      · refine ⟨_, m, n, exec_rdsmp_sample hk hc, (exec_rdsmp_sample (s := withEpochs s m n) hk hc).trans ?_⟩
        rw [sample_withEpochs m n hinv hc hk]
        rfl
      · exact ⟨_, m, n, exec_rdsmp_noData hk hc, exec_rdsmp_noData hk hc⟩
    · exact ⟨_, m, n, exec_rdsmp_range hk s, exec_rdsmp_range hk _⟩
  | txacc =>
    have hp : s.phase = .tx := hphase rfl
    have hx := txIdx_lt_of_inv hinv hp
    have hlatched := hinv.cmd_latched _ (hinv.tx_counts hp).1
    refine ⟨_, m, n, exec_txacc_tx hp hx, (exec_txacc_tx (s := withEpochs s m n) hp hx).trans ?_⟩
    rw [← cmdByte_withEpochs m n hlatched]
    rfl
  | txerr => exact ⟨_, m, n, exec_txerr_tx (hphase rfl), exec_txerr_tx (hphase rfl)⟩
  | rxb b =>
    have hp : s.phase = .rx := hphase rfl
    obtain ⟨-, hcnt⟩ := hinv.rx_counts hp
    rcases Nat.lt_or_eq_of_le (Nat.le_of_lt_succ hcnt) with hmore | hlast
    · exact ⟨_, m, n, exec_rxb_more b hp hmore, exec_rxb_more b hp hmore⟩
    · have hframe (a : Nat) (ha : a < 4003) := storeFrameByte_isSome b hinv hp (a := a) (by omega)
      have hverdict := completeFrame_withEpochs m n hframe
      exact ⟨_, m, n, exec_rxb_last b hp hlast,
        (exec_rxb_last b (s := withEpochs s m n) hp hlast).trans (congrArg Host.Outcome.next hverdict)⟩
  | rxto => exact ⟨_, m, n, exec_rxto_rx (hphase rfl), exec_rxto_rx (hphase rfl)⟩

/-- Under the invariants every step does the same, whatever the unspecified bytes hold. -/
theorem step_withEpochs {s t : State} (hinv : Inv s) (h : step s = .next t) (m n : Nat) :
    ∃ m' n', step (withEpochs s m n) = .next (withEpochs t m' n') := by
  obtain ⟨hp, ⟨hi, rfl⟩ | ⟨es, hi, rfl⟩ | ⟨w, es, r, hi, hd, rfl⟩ | ⟨w, es, i, hi, hd, hexec⟩⟩ := step_cases h
  · exact ⟨m, n, step_waits (s := withEpochs s m n) hp hi⟩
  · exact ⟨m + 1, n + 1, step_reset (s := withEpochs s m n) hp hi⟩
  · exact ⟨m, n, step_of_decode_error (s := withEpochs s m n) hp hi hd⟩
  · obtain ⟨u, m', n', hu, hexec'⟩ := exec_withEpochs i (inv_withInbox hinv es) m n
    obtain rfl := Host.Outcome.next.inj (hu.symm.trans hexec)
    exact ⟨m', n', (step_of_decode_ok (s := withEpochs s m n) hp hi hd).trans hexec'⟩

/-- Settles O53: the two states differ in the two counters alone, and so do the next ones (`step_withEpochs`). -/
theorem unspecifiedBytesNeverObservable : Obligations.UnspecifiedBytesNeverObservable := by
  intro s s' t hinv hsame h
  obtain ⟨m, n, ht⟩ := step_withEpochs hinv h s'.cmdEpoch s'.fbEpoch
  rw [← eq_withEpochs_of_sameButUnspecified hsame] at ht
  exact ⟨_, ht, rfl, sameButUnspecified_withEpochs t m n⟩

/-! ## The end of a capture (42_framer.md R83) -/

/-- Settles O47: the three instructions that end a capture do it by `finish`, and only RXB has stored a byte first. -/
theorem captureEndKeepsTheRest : Obligations.CaptureEndKeepsTheRest := by
  intro i s t h hdone
  have hend := captureEnds_of_done h hdone
  have hcap (c : Channel) : ∃ u, exec (.cap c) t = .next u ∧ u.out = [.resp (.ack 0#32)] :=
    ⟨_, exec_cap_idle c hend.now_idle, rfl⟩
  refine ⟨hend.settings_kept, ?_⟩
  cases exec_effect h with
  | txerr | rxto => exact ⟨fun _ => rfl, ⟨rfl, rfl⟩, rfl, rfl, rfl, fun _ _ => rfl, fun _ => rfl, hcap⟩
  | rxbLast b hp hx code hc =>
    exact ⟨fun _ => rfl, ⟨rfl, rfl⟩, rfl, rfl, rfl,
      fun a ha => fbByte_storeFrameByte_other s b (ha.resolve_left fun hnot => hnot b rfl),
      fun hnot => absurd rfl (hnot b), hcap⟩
  | _ => simp [isDone] at hdone

/-! ## The request goes out (20_memory.md R33, 42_framer.md R75) -/

/-- From IDLE, CAP and one TXACC per byte of the request lead to RX, with the whole request handed over. -/
theorem runInstrs_request (c : Channel) {s : State} (hp : s.phase = .idle) :
    ∃ t, runInstrs (.cap c :: List.replicate (build s c).length .txacc) s =
        some (t, .resp (.ack 0#32) :: (build s c).map .sent) ∧
      t.phase = .rx ∧ t.txIdx = t.cmdLen ∧ SendingKept (latchCapture s c (build s c)) t := by
  obtain ⟨t, hrun, hidx, hphase, hkept⟩ := runInstrs_cap_txacc c hp le_rfl
  rw [List.take_length] at hrun
  have hall : t.txIdx.toNat = t.cmdLen.toNat := by
    obtain ⟨-, -, hlen, -⟩ := hkept
    rw [hidx, hlen, cmdLen_latchCapture_toNat]
  exact ⟨t, hrun, hphase.trans (if_neg (by omega)), BitVec.eq_of_toNat_eq hall, hkept⟩

/-- Settles O54: `runInstrs_request`, and what the latch wrote. -/
theorem requestSentWholeInOrder : Obligations.RequestSentWholeInOrder := by
  intro c s hp
  obtain ⟨t, hrun, hphase, hidx, hcode, hlch, -, hcnt, hset, hframe, -⟩ := runInstrs_request c hp
  exact ⟨t, hrun, hphase, hcode, hlch, by rw [hcnt]; rfl, hidx, hset, hframe⟩

/-! ## The response comes in (42_framer.md R77 to R81) -/

/-- Fewer bytes than a frame has leave RX with no output, and only FB and RX_CNT changed. -/
theorem runInstrs_rxb_more (f : List Byte) {s : State} (hp : s.phase = .rx) (hc : s.rxCnt.toNat + f.length < 4003) :
    ∃ t, runInstrs (f.map .rxb) s = some (t, []) ∧ t.phase = .rx ∧ t.rxCnt.toNat = s.rxCnt.toNat + f.length ∧
      t.lch = s.lch ∧ t.params = s.params ∧ SettingsKept s t := by
  induction f generalizing s with
  | nil => exact ⟨s, rfl, hp, rfl, rfl, rfl, rfl, rfl⟩
  | cons b f ih =>
    rw [List.length_cons] at hc ⊢
    have hcnt := storeFrameByte_rxCnt_toNat b (s := s) (by omega)
    obtain ⟨t, ht, htphase, htcnt, htkept⟩ := ih (s := withOut (storeFrameByte s b) []) hp
      (by rw [withOut_rxCnt, hcnt]; omega)
    rw [withOut_rxCnt, hcnt] at htcnt
    exact ⟨t, runInstrs_cons (exec_rxb_more b hp (by omega)) ht, htphase, by omega, htkept⟩

/-- Settles O56: RXTO meets the block in RX, and with CODE at SHORT_READ there is no sample to read. -/
theorem shortResponseYieldsNoData : Obligations.ShortResponseYieldsNoData := by
  intro s f hp h0 hlen
  obtain ⟨u, hu, huphase, hucnt, hulch, -⟩ := runInstrs_rxb_more f hp (by omega)
  have hrxto : runInstrs [.rxto] u = some (finish u .shortRead, [.done s.lch .shortRead]) := by
    simp [runInstrs, exec_rxto_rx huphase, hulch]
  refine ⟨_, runInstrs_append hu hrxto, rfl, rfl, by simpa [h0] using hucnt, fun i hi => ?_⟩
  exact ⟨_, exec_rdsmp_noData hi (by simp), rfl⟩

/-- A response of 4003 bytes is stored as it came and ends the capture with the verdict of the marker check. -/
theorem runInstrs_frame {f : List Byte} {s : State} (hp : s.phase = .rx) (h0 : s.rxCnt.toNat = 0)
    (hlen : f.length = 4003) :
    ∃ t, runInstrs (f.map .rxb) s = some (t, [.done s.lch t.code]) ∧ t.phase = .idle ∧ t.params = s.params ∧
      SettingsKept s t ∧ (∀ k b, f[k]? = some b → fbByte t k = b) ∧
      (markersPass t = true → t.code = .ok) ∧ (¬ markersPass t = true → t.code = .framingError) := by
  obtain ⟨v, o, hv, -, hbytes, -⟩ := runInstrs_rxb f s (fun _ => hp) (by omega)
  rcases List.eq_nil_or_concat' f with rfl | ⟨g, b, rfl⟩
  · simp at hlen
  rw [List.length_append, List.length_singleton] at hlen
  obtain ⟨u, hu, huphase, hucnt, hulch, huparams, huset⟩ := runInstrs_rxb_more g hp (by omega)
  have hlast : runInstrs [.rxb b] u =
      some (completeFrame (storeFrameByte u b), [.done s.lch (completeFrame (storeFrameByte u b)).code]) := by
    rw [← hulch]
    simp [runInstrs, exec_rxb_last b huphase (by omega : u.rxCnt.toNat = 4002), completeFrame]
  have hrun := runInstrs_append hu hlast
  rw [← List.map_singleton (f := Instr.rxb), ← List.map_append] at hrun
  obtain ⟨rfl, -⟩ := Prod.mk.inj (Option.some.inj (hrun.symm.trans hv))
  rw [h0] at hbytes
  exact ⟨_, hrun, rfl, huparams, huset, by simpa using hbytes, completeFrame_verdict Iff.rfl⟩

/-- Settles O57: `runInstrs_request`, then `runInstrs_frame`; the markers and the pairs are bytes of the list. -/
theorem captureDeliversTheFrame : Obligations.CaptureDeliversTheFrame := by
  intro c s f hp hlen
  obtain ⟨u, hu, huphase, -, -, hulch, -, hucnt, huset, -, -, huparams, -⟩ := runInstrs_request c hp
  obtain ⟨t, ht, htphase, htparams, htset, hbytes, hok, herr⟩ := runInstrs_frame huphase (by rw [hucnt]; rfl) hlen
  have hbyte (k : Nat) (hk : k < 4003) : f[k]? = some (fbByte t k) := by
    rw [List.getElem?_eq_getElem (hlen ▸ hk), hbytes k _ (List.getElem?_eq_getElem (hlen ▸ hk))]
  have hpass : markersPass t = true ↔
      (s.params.legacyStartCheck = true ∨ f[0]? = some 0x53#8) ∧ f[1]? = some 0x4D#8 ∧ f[4002]? = some 0x45#8 := by
    rw [markersPass_iff, htparams, huparams, hbyte 0 (by omega), hbyte 1 (by omega), hbyte 4002 (by omega)]
    simp only [Option.some_inj, latchCapture_params]
  have hrun := runInstrs_append hu ht
  rw [hulch] at hrun
  refine ⟨t, hrun, htphase, ⟨htset.1.trans huset.1, htset.2.trans huset.2⟩, fun hmarks => ?_, fun hmarks => ?_⟩
  · have hcode := hok (hpass.mpr hmarks)
    refine ⟨hcode, fun i lo hi hsample hlo hhi => ⟨_, _, exec_rdsmp_sample hsample hcode, rfl, ?_⟩⟩
    rw [BitVec.toNat_setWidth_of_le (by decide), sample_toNat, hbytes _ _ hlo, hbytes _ _ hhi]
  · have hcode := herr (mt hpass.mp hmarks)
    exact ⟨hcode, fun i hi => ⟨_, exec_rdsmp_noData hi (by simp [hcode]), rfl⟩⟩

/-! ## Waiting for the transport (70_reset_and_hazards.md R110) -/

/-- In TX every instruction but TXACC and TXERR completes and leaves STATE, TX_IDX and the request. -/
theorem exec_tx_keeps {i : Instr} {s : State} (hp : s.phase = .tx) (hacc : i ≠ .txacc) (herr : i ≠ .txerr) :
    ∃ t, exec i s = .next t ∧ t.phase = .tx ∧ t.txIdx = s.txIdx ∧ CmdKept s t := by
  obtain ⟨t, ht⟩ : ∃ t, exec i s = .next t := exec_next (fun hi => absurd hi hacc) (fun _ _ => by simp [hp])
  refine ⟨t, ht, ?_⟩
  cases exec_effect ht with
  | tb | trig | edge => simp [setTb, setTrig, setEdge, hp, CmdKept]
  | read | busy | range | noData | ignored => exact ⟨hp, rfl, fun _ => rfl⟩
  | txacc | txerr => contradiction
  | cap c hother | rxb b hother | rxbLast b hother | rxto hother => simp [hp] at hother

/-- Settles O58: `exec_tx_keeps` along the list. -/
theorem sendingHasNoTimeout : Obligations.SendingHasNoTimeout := by
  intro is s hp his
  induction is generalizing s with
  | nil => exact ⟨s, [], rfl, hp, rfl, fun _ => rfl, fun c => ⟨_, exec_cap_busy c (by simp [hp]), rfl⟩⟩
  | cons i is ih =>
    obtain ⟨⟨hacc, herr⟩, his⟩ := List.forall_mem_cons.mp his
    obtain ⟨u, hu, huphase, huidx, hucmd⟩ := exec_tx_keeps hp hacc herr
    obtain ⟨t, o, ht, htphase, htidx, htcmd, hbusy⟩ := ih u huphase his
    exact ⟨t, _, runInstrs_cons hu ht, htphase, htidx.trans huidx, fun k => (htcmd k).trans (hucmd k), hbusy⟩

/-! ## One outcome per capture (60_exceptions.md R90) -/

/-- Without CAP an IDLE block stays IDLE along a run that completes. -/
theorem runInstrs_stays_idle {is : List Instr} {s t : State} {o : List Output} (hp : s.phase = .idle)
    (his : ∀ i ∈ is, isCap i = false) (h : runInstrs is s = some (t, o)) : t.phase = .idle := by
  obtain ⟨u, o', hu, huphase, -⟩ := runInstrs_idle_keeps_capture hp his
  obtain ⟨rfl, -⟩ := Prod.mk.inj (Option.some.inj (hu.symm.trans h))
  exact huphase.trans hp

/-- A run without CAP emits one Done if it leaves a capture in flight for IDLE, and none otherwise. -/
theorem length_filter_isDone_runInstrs {is : List Instr} {s t : State} {o : List Output}
    (his : ∀ i ∈ is, isCap i = false) (h : runInstrs is s = some (t, o)) :
    (o.filter isDone).length = if s.phase ≠ .idle ∧ t.phase = .idle then 1 else 0 := by
  induction is generalizing s o with
  | nil =>
    obtain ⟨rfl, rfl⟩ : s = t ∧ [] = o := by simpa [runInstrs] using h
    exact (if_neg fun ⟨hbusy, hidle⟩ => hbusy hidle).symm
  | cons i is ih =>
    obtain ⟨hi, his⟩ := List.forall_mem_cons.mp his
    obtain ⟨u, o', hu, hrest, rfl⟩ := runInstrs_cons_some h
    rw [List.filter_append, List.length_append, ih his hrest]
    rcases exec_captureEnds_or hu with hend | hno
    · have hidle := runInstrs_stays_idle hend.now_idle his hrest
      have hone : (u.out.filter isDone).length = 1 := by
        rw [hend.out_eq]
        rfl
      simp [hone, hend.was_busy, hend.now_idle, hidle]
    · have hphase : u.phase = .idle ↔ s.phase = .idle :=
        ⟨not_imp_not.mp hno.stays_busy, fun hidle => (exec_idle_keeps_capture hu hidle hi).1.trans hidle⟩
      have hnone : u.out.filter isDone = [] := List.filter_eq_nil_iff.mpr fun x hx => by simp [hno.no_done x hx]
      simp [hnone, hphase]

/-- Settles O60: `length_filter_isDone_runInstrs` from a capture in flight. -/
theorem oneOutcomePerCapture : Obligations.OneOutcomePerCapture := by
  intro is s t o hbusy his h
  simpa [hbusy] using length_filter_isDone_runInstrs his h

end Sys2Proof.Proofs.Other
end
